-- ==== Sys2Proof/Config.lean ====
section
/-! DEFINITION. The implementation parameters of spec/00_scope.md R9, and the machine's free values.

A parameter the spec marks OPEN is an opaque constant: it has no body, so no statement can rest on a
particular value of it. -/

namespace Sys2Proof.Config

/-- `NREG`: the number of general registers, also the threshold of the dual operand convention (R9, R10). -/
abbrev nreg : Nat := 8

/-- `MEM_WORDS`: the number of words of the data memory (R9). -/
abbrev memWords : Nat := 1024

/-- `LOG_CAP`: the kernel log's capacity in entries (R9, R128). -/
abbrev logCap : Nat := 50

/-- `TEMP_MIN`: the least reading of the temperature gauge (R9, R35). -/
abbrev tempMin : Nat := 30

/-- `TEMP_MAX`: the greatest reading of the temperature gauge (R9, R35). -/
abbrev tempMax : Nat := 85

/-- `PROG_MAX`, OPEN: the largest program length, any number up to `2^32 - 1` (R9, D8; log entry 7). -/
opaque progMax : Fin (2 ^ 32)

/-- `CLOCK_PERIOD_DEFAULT`, OPEN: the tick period at power-on (R9, D19).
DESIGN CHOICE (log entry 6): a period is named by a number, in no stated unit; safe. -/
opaque clockPeriodDefault : Nat

/-- The members of `CLOCK_PERIODS` besides the default, OPEN (R9, D19; log entry 6). -/
opaque otherClockPeriods : List Nat

/-- `CLOCK_PERIODS`: a finite non-empty set that holds the default (R9, D19). -/
def clockPeriods : List Nat := clockPeriodDefault :: otherClockPeriods

/-- `BOOT_DELAY`, OPEN: the time from power-on to the end of boot (R9, D16). No rule of the core reads it:
the end of boot is the input event `BOOT_DONE` (R145; log entry 15). -/
opaque bootDelay : Nat

/-- The `n`-th draw of the temperature gauge, counted from `TEMP_MIN` (R15, R35, D18): a FREE VALUE of the
range `[0, 55]`, under no law. DESIGN CHOICE of its form (log entry 5); safe: claims hold for every draw. -/
opaque tempDraw : Nat → Fin 56

/-- The gauge reading that draw `n` gives: an integer in `[TEMP_MIN, TEMP_MAX]` (R35). -/
def drawTemp (n : Nat) : Nat := tempMin + (tempDraw n).val

/-- The address lines of a port request that makes no access (spec/20_memory.md R67 states no value), by the
cycle of the step: a FREE VALUE. DESIGN CHOICE of its form (log entry 18); safe, no access reads it. -/
opaque idleAddr : BitVec 64 → BitVec 32

/-- The data lines of a port request that writes nothing (R67 states no value), by the cycle of the step: a
FREE VALUE. DESIGN CHOICE of its form (log entry 18); safe, no access reads it. -/
opaque idleData : BitVec 64 → BitVec 32

/-- The two readings of SUB, AND and OR (spec/42_alu.md R184 to R187). -/
inductive ReservedAlu where
  /-- the arithmetic or bitwise operation, as ADD's (R184 to R186) -/
  | arith
  /-- advance the program counter only (R187) -/
  | nop
deriving DecidableEq, Repr

/-- `RESERVED_ALU_SEMANTICS`: this hardware takes `arith` (R9, R184 to R187, C1, D7). -/
def reservedAlu : ReservedAlu := .arith

end Sys2Proof.Config
end

