-- ==== Sys2Proof/Word.lean ====
section
/-! DEFINITION. The machine's word types (spec/00_scope.md R9, R12).

`uint(v)` of the spec is `v.toNat`, `sint(v)` is `v.toInt` (two's complement), and `+`, `-`, `&`, `|`
on words are `BitVec`'s, modulo `2^32` (R12). -/

namespace Sys2Proof

/-- A general register or a data-memory word: `W = 32` bits (R9, R12, D2). -/
abbrev Word := BitVec 32

/-- One instruction word: `IW = 64` bits (R9, R91, D3). -/
abbrev InstrWord := BitVec 64

/-- An index into the data memory, `[0, 1024)`: 10 bits (R37, R63). -/
abbrev MemIndex := BitVec 10

/-- One byte cell of the memory's layout (spec/20_memory.md R69). -/
abbrev Byte := BitVec 8

end Sys2Proof
end

