-- ==== Sys2Proof/Syntax.lean ====
section
/-! DEFINITION. The instruction set: one constructor per row of spec/opcode_table.json, with the operand
forms the decoder produces (spec/30_encoding.md R92, R95, R102). -/

namespace Sys2Proof

/-- A general register's index, `[0, 8)` (spec/10_state.md R22, R24). -/
abbrev Reg := Fin Config.nreg

/-- A mode-sensitive operand, resolved by the decoder: the second operand of LOAD and of CMP (R95, R96). -/
inductive MsOperand where
  /-- `REG(k)`: an operand below 8 names a register -/
  | reg (k : Reg)
  /-- `IMM(b)`: any other operand is an immediate or a direct address -/
  | imm (v : Word)
deriving DecidableEq, Repr

/-- A decoded instruction (R102). -/
inductive Instr where
  /-- NOP (R160) -/
  | nop
  /-- MOV(dstReg, value) (R162) -/
  | mov (rd : Reg) (imm : Word)
  /-- LOAD(dstReg, addrOperand) (R164) -/
  | load (rd : Reg) (src : MsOperand)
  /-- STORE(srcReg, address) (R167) -/
  | store (rs : Reg) (addr : Word)
  /-- ADD(dstReg, srcReg) (R180) -/
  | add (rd rs : Reg)
  /-- SUB(dstReg, srcReg) (R184) -/
  | sub (rd rs : Reg)
  /-- AND(dstReg, srcReg) (R185) -/
  | and (rd rs : Reg)
  /-- OR(dstReg, srcReg) (R186) -/
  | or (rd rs : Reg)
  /-- CMP(reg, operand) (R190) -/
  | cmp (rl : Reg) (src : MsOperand)
  /-- JEQ(targetIndex) (R200) -/
  | jeq (target : Word)
  /-- JMP(targetIndex) (R203) -/
  | jmp (target : Word)
  /-- HLT (R205) -/
  | hlt
  /-- OUT(reg) (R220) -/
  | out (rs : Reg)
  /-- the illegal words of opcode 13 (R99) -/
  | illegal13
  /-- the illegal words of opcode 14 (R99) -/
  | illegal14
  /-- the illegal words of opcode 15 (R99) -/
  | illegal15
deriving DecidableEq, Repr

end Sys2Proof
end

