-- ==== Sys2Proof/WellFormed.lean ====
section
/-! DEFINITION. Which terms of `Instr` stand for words of the machine.

Register indices carry their bound in their type (spec/10_state.md R24). The one further check is that of
the dual operand convention: an immediate below 8 has no encoding in LOAD or CMP (spec/30_encoding.md R97). -/

namespace Sys2Proof

/-- `IMM(b)` exists only for `uint(b) >= 8` (spec/30_encoding.md R95, R97). -/
def MsOperand.wf : MsOperand → Bool
  | .reg _ => true
  | .imm v => decide (Config.nreg ≤ v.toNat)

/-- The instruction has an encoding: every constructor, with its operands checked (R92, R95, R97). -/
def Instr.wf : Instr → Bool
  | .nop => true
  | .mov _ _ => true
  | .load _ src => src.wf
  | .store _ _ => true
  | .add _ _ => true
  | .sub _ _ => true
  | .and _ _ => true
  | .or _ _ => true
  | .cmp _ src => src.wf
  | .jeq _ => true
  | .jmp _ => true
  | .hlt => true
  | .out _ => true
  | .illegal13 => true
  | .illegal14 => true
  | .illegal15 => true

end Sys2Proof
end

