-- ==== Sys2Proof/Decode.lean ====
section
/-! DEFINITION. The decoder and the encoder (spec/30_encoding.md R91 to R102, R108).

Decoding reads only `op`, `ra` and `b`: ignored bits never matter (R98), and every 64-bit word decodes to
exactly one constructor (R102), the illegal words by the names of their opcodes (R99). -/

namespace Sys2Proof

/-- `op = w[63:60]` (R91). -/
def opField (w : InstrWord) : BitVec 4 := w.extractLsb' 60 4

/-- `ra = w[34:32]`, a register index (R91). -/
def raField (w : InstrWord) : Reg := (w.extractLsb' 32 3).toFin

/-- `b = w[31:0]` (R91). -/
def bField (w : InstrWord) : Word := w.extractLsb' 0 32

/-- `reg(b) = b[2:0]` (R95). -/
def regOf (b : Word) : Reg := (b.extractLsb' 0 3).toFin

/-- `msop(b)`: the dual operand convention (R95, R96). -/
def msop (b : Word) : MsOperand :=
  if b.toNat < Config.nreg then .reg (regOf b) else .imm b

/-- `decode(w)` (R94, R102). `op` has four bits, so the last arm is opcode 15 alone. -/
def decode (w : InstrWord) : Instr :=
  match (opField w).toNat with
  | 0 => .nop
  | 1 => .mov (raField w) (bField w)
  | 2 => .load (raField w) (msop (bField w))
  | 3 => .store (raField w) (bField w)
  | 4 => .add (raField w) (regOf (bField w))
  | 5 => .sub (raField w) (regOf (bField w))
  | 6 => .and (raField w) (regOf (bField w))
  | 7 => .or (raField w) (regOf (bField w))
  | 8 => .cmp (raField w) (msop (bField w))
  | 9 => .jeq (bField w)
  | 10 => .jmp (bField w)
  | 11 => .hlt
  | 12 => .out (raField w)
  | 13 => .illegal13
  | 14 => .illegal14
  | _ => .illegal15

/-- A word is HLT by its opcode field alone: `w[63:60] = 11` (spec/40_step_engine.md R143, D28). -/
def isHltWord (w : InstrWord) : Bool := opField w == 11#4

/-- A word is an illegal word when its opcode field is 13, 14 or 15 (R99). -/
def isIllegalWord (w : InstrWord) : Bool := decide (13 ≤ (opField w).toNat)

/-! ## The encoder (R108) -/

/-- The one instruction format: `op`, 25 zero bits, `ra`, `b` from the top (R91, R108). -/
def packWord (op : BitVec 4) (ra : BitVec 3) (b : Word) : InstrWord := op ++ 0#25 ++ ra ++ b

/-- A register index as the 3-bit field `ra` (R91). -/
def regBits (r : Reg) : BitVec 3 := BitVec.ofFin r

/-- A register index as operand B: zero-extended to 32 bits (R106). -/
def regWord (r : Reg) : Word := (regBits r).setWidth 32

/-- A mode-sensitive operand as operand B (R95, R106). -/
def msopWord : MsOperand → Word
  | .reg k => regWord k
  | .imm v => v

/-- `enc`: the word of an instruction, every ignored bit 0 (R94, R108). The illegal constructors give the
words that the table's rows match with every ignored bit 0 (R99). -/
def encode : Instr → InstrWord
  | .nop => packWord 0 0 0
  | .mov rd imm => packWord 1 (regBits rd) imm
  | .load rd src => packWord 2 (regBits rd) (msopWord src)
  | .store rs addr => packWord 3 (regBits rs) addr
  | .add rd rs => packWord 4 (regBits rd) (regWord rs)
  | .sub rd rs => packWord 5 (regBits rd) (regWord rs)
  | .and rd rs => packWord 6 (regBits rd) (regWord rs)
  | .or rd rs => packWord 7 (regBits rd) (regWord rs)
  | .cmp rl src => packWord 8 (regBits rl) (msopWord src)
  | .jeq t => packWord 9 0 t
  | .jmp t => packWord 10 0 t
  | .hlt => packWord 11 0 0
  | .out rs => packWord 12 (regBits rs) 0
  | .illegal13 => packWord 13 0 0
  | .illegal14 => packWord 14 0 0
  | .illegal15 => packWord 15 0 0

/-- A word whose ignored bits and unused fields are all 0, and which is no illegal word: the words that
`enc` gives back (R92, R109). -/
def canonicalWord (w : InstrWord) : Bool :=
  let op := (opField w).toNat
  w.extractLsb' 35 25 == 0#25 && decide (op ≤ 12)
    && (!(op == 0 || op == 9 || op == 10 || op == 11) || raField w == 0)
    && (!(op == 0 || op == 11 || op == 12) || bField w == 0#32)
    && (!(op == 4 || op == 5 || op == 6 || op == 7) || (bField w).extractLsb' 3 29 == 0#29)

/-- The instruction the decoder reads from the low `nbits` bits of `w`, the bits above being 0. No
instruction has more than 64 bits (R93). -/
def decodeTableWord (nbits w : Nat) : Option Instr :=
  if nbits ≤ 64 then some (decode (BitVec.ofNat 64 (w % 2 ^ nbits))) else none

end Sys2Proof
end

