-- ==== Sys2Proof/Machine/State.lean ====
section
/-! DEFINITION. The state of my-pc core as plain data (spec/10_state.md R20), the reasons a step can stop,
and the state after reset (R47, spec/70_reset_and_hazards.md R260). -/

namespace Sys2Proof.Machine

/-- The data memory as byte cells, word `a` at cells `4a` to `4a + 3`, least significant byte first
(spec/20_memory.md R60, R69). Canonical form: addresses strictly rising, below 4096, and no cell holding 0,
which is what an unlisted cell reads as (R47: memory is 0 after power-on).
DESIGN CHOICE (log entry 1): the layout; safe, no access of the core observes it (R69). -/
abbrev Memory := List Host.Cell

/-- The states of the clock driver (R38, spec/40_step_engine.md R140). -/
inductive Fsm where
  | off
  | booting
  | idle
  | running
  | halted
deriving DecidableEq, Repr

/-- The flags register: `flags.zero` (always 0, R31) and `flags.equal` (R30). -/
structure Flags where
  zero : Bool
  equal : Bool
deriving DecidableEq, Repr

/-- Which access a memory fault belongs to (spec/60_exceptions.md R235). -/
inductive MemFault where
  | loadFault
  | storeFault
deriving DecidableEq, Repr

/-- The typed events of the kernel log (spec/40_step_engine.md R128). -/
inductive LogEvent where
  /-- `EXEC(pc, w)`: a step that fetches -/
  | exec (pc : Word) (w : InstrWord)
  /-- `MEMFAULT(kind, a)`: a LOAD, STORE or seed out of range -/
  | memFault (kind : MemFault) (a : Word)
  /-- `SYSCALL_OUT(v)`: an OUT -/
  | syscallOut (v : Word)
  /-- `SOFT_HALT(pc)`: a soft-halt step -/
  | softHalt (pc : Word)
  /-- `ILLEGAL_WORD(pc, w)`: an illegal word -/
  | illegalWord (pc : Word) (w : InstrWord)
  /-- `HOST(text)`: a line of the loader, format, power-on or the driver -/
  | host (text : String)
deriving DecidableEq, Repr

/-- One console line: a word printed by OUT, or a banner line of the loader (spec/44_console.md R221, R222). -/
inductive ConsoleLine where
  | word (v : Word)
  | banner (text : String)
deriving DecidableEq, Repr

/-- An input event of the block (R44). The host chooses which come and in what order (R46). -/
inductive Input where
  /-- `TICK` (spec/40_step_engine.md R141) -/
  | tick
  /-- `POWER_ON` (R260) -/
  | powerOn
  /-- `BOOT_DONE` (R145) -/
  | bootDone
  /-- `POWER_OFF` (R268) -/
  | powerOff
  /-- `LOAD(program, seeds)` (R263), with the HOST log texts and the banner lines the loader adds
  (log entry 10) -/
  | load (program : List InstrWord) (seeds : List (Word × Word)) (remarks banner : List String)
  /-- `FORMAT` (R266) -/
  | format
  /-- `SET_PERIOD(p)` (R147) -/
  | setPeriod (p : Nat)
  /-- a `HOST(text)` event outside a load: power-on, format and the driver may emit one at their discretion
  (R128). DESIGN CHOICE (log entry 10): an input of the model's own; safe, every text and place is allowed. -/
  | hostLog (text : String)
deriving DecidableEq, Repr

/-- Why a step stops with a fault. -/
inductive Fault where
  /-- Raised by the engine step when no program is loaded, and by the driver's tick in RUNNING then: R121
  needs a program, and R142 says that RUNNING always has one. DEDUCED (log entry 11); safe: the step
  stops where the spec has no state. -/
  | noProgram
deriving DecidableEq, Repr

/-- Why a step has no meaning. -/
inductive Refusal where
  /-- Raised by an arm of `exec` whose instruction has no meaning yet; safe. No arm raises it now. -/
  | notModelled (mnemonic : String)
  /-- Raised by LOAD in IDLE, RUNNING or HALTED for a program longer than `PROG_MAX` (R39, D8: "longer
  programs are refused"); safe. -/
  | programTooLong
  /-- Raised by SET_PERIOD in a powered state for a period that is no member of `CLOCK_PERIODS`: R44 has no
  such input. DESIGN CHOICE (log entry 8); safe. -/
  | periodNotSelectable
deriving DecidableEq, Repr

/-- The machine's state: every component of R20, and the model's own fields `inputs` and `draws`. -/
structure State where
  /-- `x[0..7]` (R22) -/
  x : Vector Word 8
  /-- `pc`, an index into `prog` (R26) -/
  pc : Word
  /-- `ir` (R29) -/
  ir : InstrWord
  /-- `flags` (R30, R31) -/
  flags : Flags
  /-- `err` (R33) -/
  err : Bool
  /-- `cycle` (R34) -/
  cycle : BitVec 64
  /-- `temp` (R35) -/
  temp : Nat
  /-- `period` (R36) -/
  period : Nat
  /-- `last_addr` (R37) -/
  lastAddr : Option MemIndex
  /-- `mem[0..1023]` (R62) -/
  mem : Memory
  /-- `prog` (R39) -/
  prog : Option (List InstrWord)
  /-- `klog`, oldest entry first (R128) -/
  klog : List LogEvent
  /-- `console`, oldest line first (R221) -/
  console : List ConsoleLine
  /-- `fsm` (R38) -/
  fsm : Fsm
  /-- The MODEL's own: the input events still to be applied, the host's free choice (R44, R46; log entry 4). -/
  inputs : List Input
  /-- The MODEL's own: how many draws have been taken (R15, R35; log entry 5). -/
  draws : Nat
deriving DecidableEq, Repr

/-- The word `ir` holds before any fetch: the all-zero NOP (R47, R91, R161). -/
def nopWord : InstrWord := 0#64

/-- The state that POWER_ON creates (R47, R260): the gauge takes draw number `draws`. -/
def State.poweredOn (draws : Nat) (inputs : List Input) : State where
  x := Vector.replicate 8 0#32
  pc := 0#32
  ir := nopWord
  flags := { zero := false, equal := false }
  err := false
  cycle := 0#64
  temp := Config.drawTemp draws
  period := Config.clockPeriodDefault
  lastAddr := none
  mem := []
  prog := none
  klog := []
  console := []
  fsm := .booting
  inputs := inputs
  draws := draws + 1

/-- The powered-off core: `fsm = OFF` alone (R21). The components that do not exist hold fixed
placeholders, which no output shows. DESIGN CHOICE (log entry 9); safe. -/
def State.poweredOff (draws : Nat) (inputs : List Input) : State where
  x := Vector.replicate 8 0#32
  pc := 0#32
  ir := nopWord
  flags := { zero := false, equal := false }
  err := false
  cycle := 0#64
  temp := Config.tempMin
  period := Config.clockPeriodDefault
  lastAddr := none
  mem := []
  prog := none
  klog := []
  console := []
  fsm := .off
  inputs := inputs
  draws := draws

/-- The machine right after reset: the state after POWER_ON (R47, R260; log entry 2), with no input placed
and the gauge at draw 0. -/
def State.reset : State := State.poweredOn 0 []

end Sys2Proof.Machine
end

