-- ==== Sys2Proof/Machine/Ops.lean ====
section
/-! DEFINITION. The named operations over registers, memory, the program counter, the kernel log and the
console (spec/00_scope.md R13 to R15), and the memory port controller (spec/20_memory.md R63 to R67).

There is no trap mechanism: no event saves state, changes a mode or goes to a handler, and nothing returns
from one (spec/60_exceptions.md R234, R239). What stands in its place is `State.raiseIllegal`, the one
operation by which the illegal words set `err` (spec/30_encoding.md R99). -/

namespace Sys2Proof.Machine

/-! ## Registers and the program counter -/

/-- `x[r]` (R13, R22). -/
def State.getReg (s : State) (r : Reg) : Word := s.x.get r

/-- `x[r] <- v` (R13, R22); no register is hardwired. -/
def State.setReg (s : State) (r : Reg) (v : Word) : State := { s with x := s.x.set r.val v r.isLt }

/-- `pc <- v` (R13). -/
def State.setPc (s : State) (v : Word) : State := { s with pc := v }

/-- `pc <- pc + 1` (R27, R28). -/
def State.advance (s : State) : State := s.setPc (s.pc + 1#32)

/-- `flags.equal <- b` (R30). -/
def State.setEqual (s : State) (b : Bool) : State := { s with flags := { s.flags with equal := b } }

/-! ## The kernel log and the console -/

/-- The last `n` entries of a list (R128: `last_50`). -/
def lastEntries {α : Type} (n : Nat) (l : List α) : List α := (l.reverse.take n).reverse

/-- `emit Log(e)`: append, then keep the most recent `LOG_CAP` entries (R15, R128). -/
def State.emit (s : State) (e : LogEvent) : State :=
  { s with klog := lastEntries Config.logCap (s.klog ++ [e]) }

/-- `emit Console(line)`: append one console line (R15, R221). -/
def State.printLine (s : State) (l : ConsoleLine) : State := { s with console := s.console ++ [l] }

/-! ## Memory cells and words -/

/-- The byte cell at `a`; an unlisted cell reads 0 (R47). -/
def Memory.readByte : Memory → Nat → Byte
  | [], _ => 0#8
  | (k, v) :: rest, a => if k = a then v else Memory.readByte rest a

/-- Put a cell at the head, unless it holds 0: a cell holding 0 is not listed. -/
def Memory.consCell (a : Nat) (v : Byte) (m : Memory) : Memory := if v = 0#8 then m else (a, v) :: m

/-- Write the byte cell at `a`, keeping the canonical form. -/
def Memory.writeByte : Memory → Nat → Byte → Memory
  | [], a, v => Memory.consCell a v []
  | (k, u) :: rest, a, v =>
    if a < k then Memory.consCell a v ((k, u) :: rest)
    else if a = k then Memory.consCell a v rest
    else (k, u) :: Memory.writeByte rest a v

/-- The first cell of word `i` (R69). -/
def cellOf (i : MemIndex) : Nat := 4 * i.toNat

/-- `mem[i]`, from its four cells, least significant byte first (R62, R69). -/
def Memory.readWord (m : Memory) (i : MemIndex) : Word :=
  m.readByte (cellOf i + 3) ++ m.readByte (cellOf i + 2) ++ m.readByte (cellOf i + 1) ++ m.readByte (cellOf i)

/-- `mem[i] <- v`, into its four cells, least significant byte first (R62, R69). -/
def Memory.writeWord (m : Memory) (i : MemIndex) (v : Word) : Memory :=
  (((m.writeByte (cellOf i) (v.extractLsb' 0 8)).writeByte (cellOf i + 1) (v.extractLsb' 8 8)).writeByte
    (cellOf i + 2) (v.extractLsb' 16 8)).writeByte (cellOf i + 3) (v.extractLsb' 24 8)

/-- The cells' addresses rise strictly from `low`, none is past the last cell, and none holds 0. -/
def Memory.wfFrom : Nat → Memory → Bool
  | _, [] => true
  | low, (k, v) :: rest =>
    decide (low ≤ k) && decide (k < 4 * Config.memWords) && v != 0#8 && Memory.wfFrom (k + 1) rest

/-- The canonical form: equal memories are equal lists. -/
def Memory.wf (m : Memory) : Bool := Memory.wfFrom 0 m

/-! ## The memory port controller (R63 to R67) -/

/-- `inrange(a)`: the bounds check on the signed reading of the address word (R63). -/
def inRange (a : Word) : Bool := decide (0 ≤ a.toInt) && decide (a.toInt < (Config.memWords : Int))

/-- The index an in-range address accesses: `a[9:0]` (R63). -/
def memIndex (a : Word) : MemIndex := a.extractLsb' 0 10

/-- `mem[i] <- v` in the state, `last_addr` untouched: the write of a seed (R65). -/
def State.setWord (s : State) (i : MemIndex) (v : Word) : State := { s with mem := s.mem.writeWord i v }

/-- `last_addr <- i` (R66). -/
def State.touch (s : State) (i : MemIndex) : State := { s with lastAddr := some i }

/-- `MemRead(a, 1)` (R64): the word and `last_addr` when in range, else a fault event and no value. -/
def memRead (a : Word) (s : State) : Option Word × State :=
  if inRange a then (some (s.mem.readWord (memIndex a)), s.touch (memIndex a))
  else (none, s.emit (.memFault .loadFault a))

/-- `MemWrite(a, 1, v)` as STORE makes it (R65): `mem` and `last_addr` when in range, else a fault event. -/
def memWrite (a v : Word) (s : State) : Bool × State :=
  if inRange a then (true, (s.setWord (memIndex a) v).touch (memIndex a))
  else (false, s.emit (.memFault .storeFault a))

/-- `MemWrite(a, 1, v)` as a seed of `LOAD` makes it: it does not set `last_addr` (R65, R264). -/
def seedWrite (s : State) (seed : Word × Word) : State :=
  if inRange seed.1 then s.setWord (memIndex seed.1) seed.2 else s.emit (.memFault .storeFault seed.1)

/-- The kind of a request to the port controller (R67). -/
inductive PortKind where
  | none
  | read
  | write
deriving DecidableEq, Repr

/-- A request to the port controller (R67). `addr` has a stated value in a READ and a WRITE, `wdata` in a
WRITE. -/
structure PortRequest where
  kind : PortKind
  addr : Word
  wdata : Word
deriving DecidableEq, Repr

/-- The request NONE (R67): its address and data lines are free values (log entry 18). -/
def State.idleRequest (s : State) : PortRequest :=
  { kind := .none, addr := Config.idleAddr s.cycle, wdata := Config.idleData s.cycle }

/-- The request READ at an address (R67): its data lines are a free value (log entry 18). -/
def State.readRequest (s : State) (a : Word) : PortRequest :=
  { kind := .read, addr := a, wdata := Config.idleData s.cycle }

/-- The request WRITE of a word at an address (R67). -/
def writeRequest (a v : Word) : PortRequest := { kind := .write, addr := a, wdata := v }

/-- A response of the port controller (R67). `rdata` is meaningful only for an in-range READ; elsewhere the
model gives none. DESIGN CHOICE (log entry 18); safe, no rule reads it. -/
structure PortResponse where
  ok : Bool
  rdata : Option Word
deriving DecidableEq, Repr

/-- The port controller as one unit (R67): `ok = inrange(addr)`. LOAD and STORE make their accesses through
it. -/
def port (q : PortRequest) (s : State) : PortResponse × State :=
  match q.kind with
  | .none => ({ ok := inRange q.addr, rdata := none }, s)
  | .read => ({ ok := inRange q.addr, rdata := (memRead q.addr s).1 }, (memRead q.addr s).2)
  | .write => ({ ok := inRange q.addr, rdata := none }, (memWrite q.addr q.wdata s).2)

/-! ## The illegal-word event -/

/-- The effect of an illegal word (R99, R233): `err <- 1` and the event `ILLEGAL_WORD(pc, w)`, where `w` is the
word the fetch has put into `ir`. DEDUCED (log entry 14: `w` is `ir`); safe. -/
def State.raiseIllegal (s : State) : State := ({ s with err := true }).emit (.illegalWord s.pc s.ir)

end Sys2Proof.Machine
end

