-- ==== Sys2Proof/Machine/Flags.lean ====
section
/-! DEFINITION. The flag computations. `flags.equal` is the only flag an instruction writes
(spec/10_state.md R30, R31); the ALU's `E` output computes it (spec/42_alu.md R183, R190). -/

namespace Sys2Proof.Machine

/-- The ALU's `E` output for EQ: 32-bit equality of bit patterns (R183, R190). -/
def aluEq (a b : Word) : Bool := a == b

end Sys2Proof.Machine
end

