-- ==== Sys2Proof/Machine/Operands.lean ====
section
/-! DEFINITION. The operand forms as values (spec/30_encoding.md R95, R96).

`imm32`, `addr32` and `target` are the word in the instruction itself; `reg` is a register read
(`State.getReg`); only the mode-sensitive form needs a choice. -/

namespace Sys2Proof.Machine

/-- The value of a mode-sensitive operand: `x[k]` for `REG(k)`, the word itself for `IMM(b)`
(R96, R164, R190). -/
def State.operand (s : State) : MsOperand → Word
  | .reg k => s.getReg k
  | .imm v => v

end Sys2Proof.Machine
end

