-- ==== Sys2Proof/Machine/Alu.lean ====
section
/-! DEFINITION. The ALU instructions ADD, SUB, AND, OR and CMP (spec/42_alu.md R180 to R192). -/

namespace Sys2Proof.Machine

/-- The operations of the ALU's `Y` output (R183). -/
inductive AluOp where
  | add
  | sub
  | and
  | or
deriving DecidableEq, Repr

/-- The ALU's `Y` output: modulo `2^32` or bitwise, with no carry, overflow or sign (R182, R183). -/
def alu : AluOp → Word → Word → Word
  | .add, a, b => a + b
  | .sub, a, b => a - b
  | .and, a, b => a &&& b
  | .or, a, b => a ||| b

/-- `x[rd] <- alu(x[rd], x[rs]); pc <- pc + 1`, no flag written (R180, R182). -/
def State.aluStep (s : State) (op : AluOp) (rd rs : Reg) : State :=
  (s.setReg rd (alu op (s.getReg rd) (s.getReg rs))).advance

/-- SUB, AND and OR under either reading of `RESERVED_ALU_SEMANTICS` (R184 to R187). -/
def State.reservedAluStep (s : State) (sem : Config.ReservedAlu) (op : AluOp) (rd rs : Reg) : State :=
  match sem with
  | .arith => s.aluStep op rd rs
  | .nop => s.advance

/-- ADD (R180). -/
def execAdd (rd rs : Reg) (s : State) : Host.Outcome State Fault Refusal := .next (s.aluStep .add rd rs)

/-- SUB (R184, R187). -/
def execSub (rd rs : Reg) (s : State) : Host.Outcome State Fault Refusal :=
  .next (s.reservedAluStep Config.reservedAlu .sub rd rs)

/-- AND (R185, R187). -/
def execAnd (rd rs : Reg) (s : State) : Host.Outcome State Fault Refusal :=
  .next (s.reservedAluStep Config.reservedAlu .and rd rs)

/-- OR (R186, R187). -/
def execOr (rd rs : Reg) (s : State) : Host.Outcome State Fault Refusal :=
  .next (s.reservedAluStep Config.reservedAlu .or rd rs)

/-- CMP (R190): `flags.equal` is written on every execution. -/
def execCmp (rl : Reg) (src : MsOperand) (s : State) : Host.Outcome State Fault Refusal :=
  .next (s.setEqual (aluEq (s.getReg rl) (s.operand src))).advance

end Sys2Proof.Machine
end

