-- ==== Sys2Proof/Machine/Console.lean ====
section
/-! DEFINITION. OUT and the console (spec/44_console.md R220 to R223). -/

namespace Sys2Proof.Machine

/-- OUT (R220): one console line, then the `SYSCALL_OUT` event. -/
def execOut (rs : Reg) (s : State) : Host.Outcome State Fault Refusal :=
  .next ((s.printLine (.word (s.getReg rs))).emit (.syscallOut (s.getReg rs))).advance

/-- The decimal digits of an integer: an optional `-`, then the digits with no leading zeros (R222). -/
def decimal (z : Int) : List Char :=
  if z < 0 then '-' :: Nat.toDigits 10 z.natAbs else Nat.toDigits 10 z.natAbs

/-- The text of a console line: `sint(v)` in decimal, or the banner's own text (R221, R222). -/
def ConsoleLine.text : ConsoleLine → List Char
  | .word v => decimal v.toInt
  | .banner t => t.toList

/-- The words presented on the console output port, in program order (R223). -/
def portWords : List ConsoleLine → List Word
  | [] => []
  | .word v :: rest => v :: portWords rest
  | .banner _ :: rest => portWords rest

end Sys2Proof.Machine
end

