-- ==== Sys2Proof/Machine/Control.lean ====
section
/-! DEFINITION. The control-transfer instructions JEQ, JMP and HLT (spec/43_control.md R200 to R207), and the
illegal words (spec/30_encoding.md R99). -/

namespace Sys2Proof.Machine

/-- JEQ (R200): the flag is read, not cleared; the target is absolute and unchecked (R202). -/
def execJeq (target : Word) (s : State) : Host.Outcome State Fault Refusal :=
  .next (if s.flags.equal then s.setPc target else s.advance)

/-- JMP (R203). -/
def execJmp (target : Word) (s : State) : Host.Outcome State Fault Refusal := .next (s.setPc target)

/-- HLT (R205): `pc` unchanged; `ir` holds HLT from the fetch. -/
def execHlt (s : State) : Host.Outcome State Fault Refusal := .next s

/-- An illegal word of opcode 13 (R99): a next state with `err = 1`, `pc` unchanged (log entry 13). -/
def execIllegal13 (s : State) : Host.Outcome State Fault Refusal := .next s.raiseIllegal

/-- An illegal word of opcode 14 (R99). -/
def execIllegal14 (s : State) : Host.Outcome State Fault Refusal := .next s.raiseIllegal

/-- An illegal word of opcode 15 (R99). -/
def execIllegal15 (s : State) : Host.Outcome State Fault Refusal := .next s.raiseIllegal

end Sys2Proof.Machine
end

