-- ==== Sys2Proof/Machine/DataMovement.lean ====
section
/-! DEFINITION. The data movement instructions NOP, MOV, LOAD and STORE (spec/41_data_movement.md R160 to
R169). Each meaning runs after the fetch and the `EXEC` event (spec/40_step_engine.md R125). -/

namespace Sys2Proof.Machine

/-- NOP (R160). -/
def execNop (s : State) : Host.Outcome State Fault Refusal := .next s.advance

/-- MOV (R162): the value is always an immediate. -/
def execMov (rd : Reg) (imm : Word) (s : State) : Host.Outcome State Fault Refusal :=
  .next (s.setReg rd imm).advance

/-- LOAD's register write: `x[rd] <- v` when the read gave a value (R164). -/
def State.writeLoaded (s : State) (rd : Reg) : Option Word → State
  | some v => s.setReg rd v
  | none => s

/-- The one request that LOAD issues: a READ at its effective address (R164; spec/20_memory.md R67). -/
def loadRequest (src : MsOperand) (s : State) : PortRequest := s.readRequest (s.operand src)

/-- The one request that STORE issues: a WRITE of `x[rs]` at its direct address (R167, R168;
spec/20_memory.md R67). -/
def storeRequest (rs : Reg) (addr : Word) (s : State) : PortRequest := writeRequest addr (s.getReg rs)

/-- LOAD (R164): register-indirect or direct; out of range it logs, and `pc` advances either way. -/
def execLoad (rd : Reg) (src : MsOperand) (s : State) : Host.Outcome State Fault Refusal :=
  let r := port (loadRequest src s) s
  .next (r.2.writeLoaded rd r.1.rdata).advance

/-- STORE (R167, R168): the address is always direct; out of range it logs, and `pc` advances either way. -/
def execStore (rs : Reg) (addr : Word) (s : State) : Host.Outcome State Fault Refusal :=
  .next (port (storeRequest rs addr s) s).2.advance

/-- The request that an instruction issues to the port controller: LOAD one READ, STORE one WRITE, every other
instruction NONE (spec/20_memory.md R67). -/
def portRequest (i : Instr) (s : State) : PortRequest :=
  match i with
  | .load _ src => loadRequest src s
  | .store rs addr => storeRequest rs addr s
  | .nop => s.idleRequest
  | .mov _ _ => s.idleRequest
  | .add _ _ => s.idleRequest
  | .sub _ _ => s.idleRequest
  | .and _ _ => s.idleRequest
  | .or _ _ => s.idleRequest
  | .cmp _ _ => s.idleRequest
  | .jeq _ => s.idleRequest
  | .jmp _ => s.idleRequest
  | .hlt => s.idleRequest
  | .out _ => s.idleRequest
  | .illegal13 => s.idleRequest
  | .illegal14 => s.idleRequest
  | .illegal15 => s.idleRequest

end Sys2Proof.Machine
end

