-- ==== Sys2Proof/Machine/Dispatch.lean ====
section
/-! DEFINITION. The dispatch on the decoded instruction (spec/40_step_engine.md R125). -/

namespace Sys2Proof.Machine

def exec (i : Instr) (s : State) : Host.Outcome State Fault Refusal :=
  match i with
  | .nop => Sys2Proof.Machine.execNop s
  | .mov rd imm => Sys2Proof.Machine.execMov rd imm s
  | .load rd src => Sys2Proof.Machine.execLoad rd src s
  | .store rs addr => Sys2Proof.Machine.execStore rs addr s
  | .add rd rs => Sys2Proof.Machine.execAdd rd rs s
  | .sub rd rs => Sys2Proof.Machine.execSub rd rs s
  | .and rd rs => Sys2Proof.Machine.execAnd rd rs s
  | .or rd rs => Sys2Proof.Machine.execOr rd rs s
  | .cmp rl src => Sys2Proof.Machine.execCmp rl src s
  | .jeq target => Sys2Proof.Machine.execJeq target s
  | .jmp target => Sys2Proof.Machine.execJmp target s
  | .hlt => Sys2Proof.Machine.execHlt s
  | .out rs => Sys2Proof.Machine.execOut rs s
  | .illegal13 => Sys2Proof.Machine.execIllegal13 s
  | .illegal14 => Sys2Proof.Machine.execIllegal14 s
  | .illegal15 => Sys2Proof.Machine.execIllegal15 s

end Sys2Proof.Machine
end

