-- ==== Sys2Proof/Machine/Engine.lean ====
section
/-! DEFINITION. The engine step (spec/40_step_engine.md R121 to R130): at most one instruction. -/

namespace Sys2Proof.Machine

/-- The fetch of word `w`: `ir <- w`, then the event `EXEC(pc, w)` (R123, R125). -/
def State.fetch (s : State) (w : InstrWord) : State := ({ s with ir := w }).emit (.exec s.pc w)

/-- The soft halt: the event `SOFT_HALT(pc)` and nothing else (R122). -/
def State.softHalt (s : State) : State := s.emit (.softHalt s.pc)

/-- `step()` of R130 over the program `p` that `prog` holds: soft halt at or past its end, else fetch, decode
and execute. -/
def engineStepOn (p : List InstrWord) (s : State) : Host.Outcome State Fault Refusal :=
  if h : s.pc.toNat < p.length then exec (decode p[s.pc.toNat]) (s.fetch p[s.pc.toNat])
  else .next s.softHalt

/-- The engine step on the loaded program (R121). Without a program it faults: R121 has no such call
(DEDUCED, log entry 11; safe). -/
def engineStep (s : State) : Host.Outcome State Fault Refusal :=
  match s.prog with
  | some p => engineStepOn p s
  | none => .fault .noProgram

/-- The request that an engine step issues to the port controller, at most one: that of the instruction it
executes, NONE in a soft halt (R122; spec/20_memory.md R67). -/
def State.engineRequest (s : State) : PortRequest :=
  match (s.prog.getD [])[s.pc.toNat]? with
  | some w => portRequest (decode w) (s.fetch w)
  | none => s.idleRequest

/-- `n` engine steps by a direct caller of `step`, stopping at the first that gives no state (R122, R127). -/
def engineRun : Nat → State → Host.Outcome State Fault Refusal
  | 0, s => .next s
  | n + 1, s =>
    match engineStep s with
    | .next t => engineRun n t
    | .fault r => .fault r
    | .refused r => .refused r

end Sys2Proof.Machine
end

