-- ==== Sys2Proof/Machine/Driver.lean ====
section
/-! DEFINITION. The clock driver (spec/40_step_engine.md R140 to R150) and the host's commands
(spec/70_reset_and_hazards.md R260 to R268).

One step of the model applies one input event (spec/10_state.md R46). -/

namespace Sys2Proof.Machine

/-! ## TICK (R141) -/

/-- `cycle <- cycle + 1; temp <- draw integer in [30, 85]` (R34, R35, R141). -/
def State.count (s : State) : State :=
  { s with cycle := s.cycle + 1#64, temp := Config.drawTemp s.draws, draws := s.draws + 1 }

/-- `fsm <- HALTED; prog <- none` (R141). -/
def State.halt (s : State) : State := { s with fsm := .halted, prog := none }

/-- The driver's halt test: HLT in `ir`, or `err = 1` (R141, R143). -/
def State.stopped (s : State) : Bool := isHltWord s.ir || s.err

/-- `f` on the next state of an outcome. -/
def thenNext (o : Host.Outcome State Fault Refusal) (f : State → State) : Host.Outcome State Fault Refusal :=
  match o with
  | .next t => .next (f t)
  | .fault r => .fault r
  | .refused r => .refused r

/-- A TICK in RUNNING after the counting, over the loaded program (R141, R144, R238): halt without a step,
soft halt, or a normal step. -/
def runTick (p : List InstrWord) (s : State) : Host.Outcome State Fault Refusal :=
  if s.stopped then .next s.halt
  else if p.length ≤ s.pc.toNat then thenNext (engineStep s) State.halt
  else engineStep s

/-- `TICK` (R141). In RUNNING a program is always loaded (R142); without one it faults (log entry 11). -/
def tick (s : State) : Host.Outcome State Fault Refusal :=
  match s.fsm with
  | .off => .next s
  | .booting => .next s
  | .idle => .next s.count
  | .halted => .next s.count
  | .running =>
    match s.prog with
    | some p => runTick p s.count
    | none => .fault .noProgram

/-! ## The host's commands -/

/-- What LOAD and FORMAT both reset: registers, `pc`, `ir`, flags, `err` and `last_addr` (R47, R263, R266). -/
def State.clearMachine (s : State) : State :=
  { s with x := Vector.replicate 8 0#32, pc := 0#32, ir := nopWord, flags := { zero := false, equal := false },
           err := false, lastAddr := none }

/-- The loader's discretionary HOST log events and banner lines (R128, R221, R263; log entry 10). -/
def State.loaderLines (s : State) (remarks banner : List String) : State :=
  banner.foldl (fun t l => t.printLine (.banner l)) (remarks.foldl (fun t l => t.emit (.host l)) s)

/-- A program installed on the reset machine state: `prog <- program` (R263). -/
def State.install (s : State) (program : List InstrWord) : State := { s.clearMachine with prog := some program }

/-- `last_addr <- none` (R263). -/
def State.clearLast (s : State) : State := { s with lastAddr := none }

/-- `fsm <- RUNNING` (R263). -/
def State.enterRunning (s : State) : State := { s with fsm := .running }

/-- The load of R263: machine state reset, program installed, seeds written in list order (R264), the
loader's lines, RUNNING. -/
def State.loadProgram (s : State) (program : List InstrWord) (seeds : List (Word × Word))
    (remarks banner : List String) : State :=
  ((seeds.foldl seedWrite (s.install program)).clearLast.loaderLines remarks banner).enterRunning

/-- The format of R266: memory zeroed, machine state reset, program discarded, IDLE. -/
def State.formatted (s : State) : State := { s.clearMachine with mem := [], prog := none, fsm := .idle }

/-- The driver is in IDLE, RUNNING or HALTED: powered and booted (R148, R149, R262). -/
def Fsm.booted : Fsm → Bool
  | .off => false
  | .booting => false
  | .idle => true
  | .running => true
  | .halted => true

/-- `POWER_ON` (R146, R260): only in OFF. -/
def powerOn (s : State) : Host.Outcome State Fault Refusal :=
  if s.fsm = .off then .next (State.poweredOn s.draws s.inputs) else .next s

/-- `BOOT_DONE` (R145): only in BOOTING. -/
def bootDone (s : State) : Host.Outcome State Fault Refusal :=
  if s.fsm = .booting then .next { s with fsm := .idle } else .next s

/-- `POWER_OFF` (R146, R268): everything is discarded; in OFF it is ignored. -/
def powerOff (s : State) : Host.Outcome State Fault Refusal :=
  if s.fsm = .off then .next s else .next (State.poweredOff s.draws s.inputs)

/-- `LOAD` (R148, R263): ignored in OFF and BOOTING; a program longer than `PROG_MAX` is refused (D8). -/
def loadCommand (program : List InstrWord) (seeds : List (Word × Word)) (remarks banner : List String)
    (s : State) : Host.Outcome State Fault Refusal :=
  if s.fsm.booted then
    if program.length ≤ Config.progMax.val then .next (s.loadProgram program seeds remarks banner)
    else .refused .programTooLong
  else .next s

/-- `FORMAT` (R149, R266, R267): ignored in OFF and BOOTING. -/
def formatCommand (s : State) : Host.Outcome State Fault Refusal :=
  if s.fsm.booted then .next s.formatted else .next s

/-- `SET_PERIOD(p)` (R147): in any state but OFF; a `p` outside `CLOCK_PERIODS` is no input of the block. -/
def setPeriod (p : Nat) (s : State) : Host.Outcome State Fault Refusal :=
  if s.fsm = .off then .next s
  else if p ∈ Config.clockPeriods then .next { s with period := p }
  else .refused .periodNotSelectable

/-- A `HOST(text)` event outside a load (R128; log entry 10): in OFF there is no log. -/
def hostLog (text : String) (s : State) : Host.Outcome State Fault Refusal :=
  if s.fsm = .off then .next s else .next (s.emit (.host text))

/-! ## One input event -/

/-- The effect of one input event (R44, R140 to R150). -/
def applyInput (i : Input) (s : State) : Host.Outcome State Fault Refusal :=
  match i with
  | .tick => tick s
  | .powerOn => powerOn s
  | .bootDone => bootDone s
  | .powerOff => powerOff s
  | .load program seeds remarks banner => loadCommand program seeds remarks banner s
  | .format => formatCommand s
  | .setPeriod p => setPeriod p s
  | .hostLog text => hostLog text s

/-- The input event that comes next: the first the host has placed, else a TICK of the periodic timer
(DESIGN CHOICE, log entry 4). -/
def State.nextInput (s : State) : Input :=
  match s.inputs with
  | [] => .tick
  | i :: _ => i

/-- The state with its next input event taken off the list. -/
def State.takeInput (s : State) : State := { s with inputs := s.inputs.tail }

/-- Apply the next input event, to completion (R46). -/
def applyNext (s : State) : Host.Outcome State Fault Refusal := applyInput s.nextInput s.takeInput

/-! ## Placing an instruction where the next step fetches it -/

/-- The program `p` with word `w` at index `n`, extended by NOPs where it is too short. -/
def placeWord : List InstrWord → Nat → InstrWord → List InstrWord
  | [], 0, w => [w]
  | _ :: rest, 0, w => w :: rest
  | [], n + 1, w => nopWord :: placeWord [] n w
  | v :: rest, n + 1, w => v :: placeWord rest n w

/-- The state in which the very next step fetches and runs `w`: RUNNING, with `w` at `pc` in the program, not
stopped by an earlier HLT or illegal word, and a TICK as the next input. It stands for BOOT_DONE and LOAD
(log entry 3). -/
def State.placeInstr (s : State) (w : InstrWord) : State :=
  { s with
    prog := some (placeWord (s.prog.getD []) s.pc.toNat w)
    ir := if isHltWord s.ir then nopWord else s.ir
    err := false
    fsm := .running
    inputs := if s.nextInput = .tick then s.inputs else .tick :: s.inputs }

end Sys2Proof.Machine
end

