-- ==== Sys2Proof/Machine/Step.lean ====
section
/-! DEFINITION. The machine's step: one input event (spec/10_state.md R44, R46), which for a TICK in RUNNING
is at most one instruction (spec/40_step_engine.md R141). -/

namespace Sys2Proof.Machine

/-- One step applies the next input event. -/
def step (s : State) : Host.Outcome State Fault Refusal := applyNext s

/-- `s` with the instruction of the low `nbits` bits of `w` placed where the next step fetches. -/
def State.withFetchWord (s : State) (nbits w : Nat) : State := s.placeInstr (BitVec.ofNat 64 (w % 2 ^ nbits))

end Sys2Proof.Machine
end

