-- ==== Sys2Proof/Machine/Assembler.lean ====
section
/-! DEFINITION. The assembler (spec/30_encoding.md R103 to R110): operand ranges, refusals, the encoding
function of an accepted instruction, and the program text with labels and comments.

Texts are lists of characters. A refusal names its line (R110). -/

namespace Sys2Proof.Machine

/-- The 13 mnemonics (R94); there are no pseudo-instructions (R107). -/
inductive Mnemonic where
  | nop | mov | load | store | add | sub | and | or | cmp | jeq | jmp | hlt | out
deriving DecidableEq, Repr

/-- The opcode number (R94). -/
def Mnemonic.opcode : Mnemonic → BitVec 4
  | .nop => 0
  | .mov => 1
  | .load => 2
  | .store => 3
  | .add => 4
  | .sub => 5
  | .and => 6
  | .or => 7
  | .cmp => 8
  | .jeq => 9
  | .jmp => 10
  | .hlt => 11
  | .out => 12

/-- The operand lists of R92, by the forms of their operands. -/
inductive OperandShape where
  | none
  /-- a register, then a 32-bit word -/
  | regWord
  /-- a register, then a mode-sensitive operand -/
  | regMode
  /-- two registers -/
  | regReg
  /-- a target index -/
  | target
  /-- one register -/
  | reg
deriving DecidableEq, Repr

/-- The operand list of each mnemonic (R92, R105). -/
def Mnemonic.shape : Mnemonic → OperandShape
  | .nop => .none
  | .mov => .regWord
  | .load => .regMode
  | .store => .regWord
  | .add => .regReg
  | .sub => .regReg
  | .and => .regReg
  | .or => .regReg
  | .cmp => .regMode
  | .jeq => .target
  | .jmp => .target
  | .hlt => .none
  | .out => .reg

/-- Why the assembler refuses a line (R110). -/
inductive AsmError where
  /-- the line is no instruction of R103 and R104 -/
  | malformed
  | unknownMnemonic
  | wrongOperandCount
  | registerOutOfRange
  | negativeModeOperand
  | operandOutOfRange
  | undefinedLabel
  /-- a label defined twice: DESIGN CHOICE (log entry 16); safe for the machine, unsafe for a claim that
  such a text is refused -/
  | duplicateLabel
deriving DecidableEq, Repr

/-! ## One instruction (R105, R106, R108) -/

/-- A register operand: `[0, 7]` (R106). -/
def regOperand (z : Int) : Except AsmError (BitVec 3) :=
  if 0 ≤ z ∧ z ≤ 7 then .ok (BitVec.ofInt 3 z) else .error .registerOutOfRange

/-- A MOV value or STORE address: `[-2^31, 2^31 - 1]`, as its two's-complement pattern (R106). -/
def wordOperand (z : Int) : Except AsmError Word :=
  if -2147483648 ≤ z ∧ z ≤ 2147483647 then .ok (BitVec.ofInt 32 z) else .error .operandOutOfRange

/-- A LOAD or CMP second operand: `[0, 2^31 - 1]` (R106, R110). -/
def modeOperand (z : Int) : Except AsmError Word :=
  if z < 0 then .error .negativeModeOperand
  else if z ≤ 2147483647 then .ok (BitVec.ofInt 32 z) else .error .operandOutOfRange

/-- A JEQ or JMP target: `[0, 2^32 - 1]` (R106). -/
def targetOperand (z : Int) : Except AsmError Word :=
  if 0 ≤ z ∧ z ≤ 4294967295 then .ok (BitVec.ofInt 32 z) else .error .operandOutOfRange

/-- `enc(m, operands)` of an accepted instruction, else the refusal (R105, R106, R108, R110). -/
def assemble (m : Mnemonic) (operands : List Int) : Except AsmError InstrWord :=
  match m.shape, operands with
  | .none, [] => .ok (packWord m.opcode 0 0)
  | .regWord, [r, v] => do
    let ra ← regOperand r
    let b ← wordOperand v
    return packWord m.opcode ra b
  | .regMode, [r, v] => do
    let ra ← regOperand r
    let b ← modeOperand v
    return packWord m.opcode ra b
  | .regReg, [r, v] => do
    let ra ← regOperand r
    let rb ← regOperand v
    return packWord m.opcode ra (rb.setWidth 32)
  | .target, [t] => do
    let b ← targetOperand t
    return packWord m.opcode 0 b
  | .reg, [r] => do
    let ra ← regOperand r
    return packWord m.opcode ra 0
  | _, _ => .error .wrongOperandCount

/-! ## The text of one instruction (R103) -/

/-- The mnemonic's text, upper case (R103). -/
def Mnemonic.text : Mnemonic → List Char
  | .nop => "NOP".toList
  | .mov => "MOV".toList
  | .load => "LOAD".toList
  | .store => "STORE".toList
  | .add => "ADD".toList
  | .sub => "SUB".toList
  | .and => "AND".toList
  | .or => "OR".toList
  | .cmp => "CMP".toList
  | .jeq => "JEQ".toList
  | .jmp => "JMP".toList
  | .hlt => "HLT".toList
  | .out => "OUT".toList

/-- All mnemonics, in the table's order (R94). -/
def allMnemonics : List Mnemonic :=
  [.nop, .mov, .load, .store, .add, .sub, .and, .or, .cmp, .jeq, .jmp, .hlt, .out]

/-- The mnemonic a text names (R110: an unknown one is refused). -/
def mnemonicOf (cs : List Char) : Option Mnemonic := allMnemonics.find? fun m => m.text == cs

/-- White space inside a line. -/
def isBlank (c : Char) : Bool := c == ' ' || c == '\t' || c == '\r' || c == '\n'

/-- A text without white space at its ends. -/
def trimText (cs : List Char) : List Char :=
  ((cs.dropWhile isBlank).reverse.dropWhile isBlank).reverse

/-- A text cut at every occurrence of a character. -/
def cutAt (c : Char) : List Char → List (List Char)
  | [] => [[]]
  | d :: rest =>
    if d = c then [] :: cutAt c rest
    else
      match cutAt c rest with
      | [] => [[d]]
      | first :: more => (d :: first) :: more

/-- The value of a digit, decimal or hexadecimal. -/
def digitValue (c : Char) : Option Nat :=
  if '0' ≤ c ∧ c ≤ '9' then some (c.toNat - '0'.toNat)
  else if 'a' ≤ c ∧ c ≤ 'f' then some (c.toNat - 'a'.toNat + 10)
  else if 'A' ≤ c ∧ c ≤ 'F' then some (c.toNat - 'A'.toNat + 10)
  else none

/-- Digits of a base read after the value `acc`. -/
def digitsFrom (base acc : Nat) : List Char → Option Nat
  | [] => some acc
  | c :: rest =>
    match digitValue c with
    | some d => if d < base then digitsFrom base (acc * base + d) rest else none
    | none => none

/-- A non-empty row of digits of a base. -/
def readDigits (base : Nat) : List Char → Option Nat
  | [] => none
  | c :: rest => digitsFrom base 0 (c :: rest)

/-- An integer: decimal, optionally negative, or `0x` hexadecimal (R103). -/
def readInt : List Char → Option Int
  | '-' :: ds => (readDigits 10 ds).map fun n => -(n : Int)
  | '0' :: 'x' :: ds => (readDigits 16 ds).map fun n => (n : Int)
  | ds => (readDigits 10 ds).map fun n => (n : Int)

/-- A character a label may begin with. -/
def isNameStart (c : Char) : Bool := ('a' ≤ c && c ≤ 'z') || ('A' ≤ c && c ≤ 'Z') || c == '_'

/-- A label's name: letters, digits and `_`, no digit first. DESIGN CHOICE (log entry 16): R104 gives no
alphabet; safe for the machine, unsafe for a claim that a text is refused. -/
def isName : List Char → Bool
  | [] => false
  | c :: rest => isNameStart c && rest.all fun d => isNameStart d || ('0' ≤ d && d ≤ '9')

/-- An operand of the text: an integer, or a label (R104). -/
inductive TextOperand where
  | int (z : Int)
  | label (name : List Char)
deriving DecidableEq, Repr

/-- One operand (R103, R104). -/
def readOperand (cs : List Char) : Except AsmError TextOperand :=
  match readInt (trimText cs) with
  | some z => .ok (.int z)
  | none => if isName (trimText cs) then .ok (.label (trimText cs)) else .error .malformed

/-- The operands of a comma-separated list, in order. -/
def readOperands : List (List Char) → Except AsmError (List TextOperand)
  | [] => .ok []
  | cs :: rest => do
    let o ← readOperand cs
    let os ← readOperands rest
    return o :: os

/-- The text between the parentheses of an instruction: empty, or operands separated by commas (R103). -/
def readArguments (cs : List Char) : Except AsmError (List TextOperand) :=
  if trimText cs = [] then .ok [] else readOperands (cutAt ',' cs)

/-- An instruction's mnemonic text and operands: `MNEMONIC(op1, op2)`, `MNEMONIC(op1)`, `MNEMONIC()` or
`MNEMONIC` (R103). -/
def readInstr (cs : List Char) : Except AsmError (List Char × List TextOperand) :=
  let name := trimText (cs.takeWhile (· != '('))
  match trimText (cs.dropWhile (· != '(')) with
  | [] => .ok (name, [])
  | _ :: inner =>
    match inner.reverse with
    | ')' :: args => do
      let os ← readArguments args.reverse
      return (name, os)
    | _ => .error .malformed

/-! ## Program text (R104) -/

/-- The labels of a program with the indices of the instructions they label. -/
abbrev Labels := List (List Char × Nat)

/-- The index a label stands for. -/
def Labels.find (ls : Labels) (name : List Char) : Option Nat := List.lookup name ls

/-- An operand's value; only JEQ and JMP take a label (R104). -/
def operandValue (ls : Labels) (m : Mnemonic) : TextOperand → Except AsmError Int
  | .int z => .ok z
  | .label name =>
    if m.shape = .target then
      match ls.find name with
      | some n => .ok (n : Int)
      | none => .error .undefinedLabel
    else .error .malformed

/-- The values of an instruction's operands, in order. -/
def operandValues (ls : Labels) (m : Mnemonic) : List TextOperand → Except AsmError (List Int)
  | [] => .ok []
  | o :: rest => do
    let v ← operandValue ls m o
    let vs ← operandValues ls m rest
    return v :: vs

/-- The word of one instruction's text (R103, R108, R110). -/
def assembleInstr (ls : Labels) (cs : List Char) : Except AsmError InstrWord := do
  let (name, os) ← readInstr cs
  match mnemonicOf name with
  | some m => do
    let vs ← operandValues ls m os
    assemble m vs
  | none => .error .unknownMnemonic

/-- A line of the program: its number, its label, and its instruction's text, which may be empty. -/
structure SourceLine where
  number : Nat
  label : Option (List Char)
  body : List Char
deriving DecidableEq, Repr

/-- A line without its comment: text from `;` on is a comment (R104). -/
def dropComment (cs : List Char) : List Char := cs.takeWhile (· != ';')

/-- A numbered line cut into its label, if it starts with one, and its body (R104). -/
def readLine (number : Nat) (cs : List Char) : Except (Nat × AsmError) SourceLine :=
  match cutAt ':' cs with
  | [] => .ok { number := number, label := none, body := [] }
  | [body] => .ok { number := number, label := none, body := trimText body }
  | [name, body] =>
    if isName (trimText name) then
      .ok { number := number, label := some (trimText name), body := trimText body }
    else .error (number, .malformed)
  | _ => .error (number, .malformed)

/-- The lines of a text, numbered from `n` (R104). -/
def readLines (n : Nat) : List (List Char) → Except (Nat × AsmError) (List SourceLine)
  | [] => .ok []
  | cs :: rest => do
    let l ← readLine n cs
    let ls ← readLines (n + 1) rest
    return l :: ls

/-- The number of the line on which a text that follows on line `line` begins, white space skipped. -/
def textLine (line : Nat) (cs : List Char) : Nat := line + (cs.takeWhile isBlank).count '\n'

/-- The items of a bracketed list: cut at commas outside parentheses, each with the number `start` of the line
it begins on (R110: a refusal names its line). `item` holds the characters of the current item, last one first,
without white space before it. The first `]` ends the list, and only white space may follow it; an item may not
be empty, but for the empty list. -/
def readItems (first : Bool) (depth line start : Nat) (item : List Char) :
    List Char → Except (Nat × AsmError) (List SourceLine)
  | [] => .error (if item = [] then line else start, .malformed)
  | c :: rest =>
    let begun := if item = [] then line else start
    if c = '\n' then readItems first depth (line + 1) start (if item = [] then [] else c :: item) rest
    else if isBlank c then readItems first depth line start (if item = [] then [] else c :: item) rest
    else if c = '(' then readItems first (depth + 1) line begun (c :: item) rest
    else if c = ')' then readItems first (depth - 1) line begun (c :: item) rest
    else if c = ',' ∧ depth = 0 then
      if item = [] then .error (line, .malformed)
      else do
        let ls ← readItems false 0 line line [] rest
        return { number := start, label := none, body := trimText item.reverse } :: ls
    else if c = ']' then
      if trimText rest ≠ [] then .error (textLine line rest, .malformed)
      else if item ≠ [] then .ok [{ number := start, label := none, body := trimText item.reverse }]
      else if first then .ok [] else .error (line, .malformed)
    else readItems first depth line begun (c :: item) rest

/-- Lines joined again by line ends. -/
def joinLines : List (List Char) → List Char
  | [] => []
  | [l] => l
  | l :: rest => l ++ '\n' :: joinLines rest

/-- The lines of a program text: one instruction per line, or a bracketed comma-separated list (R104). -/
def readProgram (text : List Char) : Except (Nat × AsmError) (List SourceLine) :=
  let lines := (cutAt '\n' text).map dropComment
  let joined := joinLines lines
  match joined.dropWhile isBlank with
  | '[' :: rest => readItems true 0 (textLine 1 joined) (textLine 1 joined) [] rest
  | _ => readLines 1 lines

/-- The labels, each with the index of the instruction it labels, the first instruction having index 0
(R104). A label alone on its line labels the next instruction, and a label after the last instruction, which
labels none, stands for the program's length. DESIGN CHOICE (log entry 16): R104 states neither; unsafe for a
claim that such a text is refused. -/
def collectLabels (index : Nat) (known : Labels) : List SourceLine → Except (Nat × AsmError) Labels
  | [] => .ok known
  | l :: rest =>
    let next := if l.body = [] then index else index + 1
    match l.label with
    | none => collectLabels next known rest
    | some name =>
      match known.find name with
      | some _ => .error (l.number, .duplicateLabel)
      | none => collectLabels next ((name, index) :: known) rest

/-- The words of the lines that hold an instruction, in order; a refusal names its line (R110). -/
def assembleLines (ls : Labels) : List SourceLine → Except (Nat × AsmError) (List InstrWord)
  | [] => .ok []
  | l :: rest =>
    if l.body = [] then assembleLines ls rest
    else
      match assembleInstr ls l.body with
      | .ok w => do
        let ws ← assembleLines ls rest
        return w :: ws
      | .error e => .error (l.number, e)

/-- The assembler: the program's words, or the refusal with its line (R103 to R110). It works in passes: the
form of every line or list item, then the labels, then each instruction. Where several lines could be refused,
the first one of the earliest pass is named. DESIGN CHOICE (log entry 16): R110 does not say which; safe for the
machine, unsafe for a claim on the line that is named. -/
def assembleText (text : List Char) : Except (Nat × AsmError) (List InstrWord) := do
  let lines ← readProgram text
  let ls ← collectLabels 0 [] lines
  assembleLines ls lines

end Sys2Proof.Machine
end

