-- ==== Sys2Proof/Machine/Disassembler.lean ====
section
/-! DEFINITION. Disassembly (spec/30_encoding.md R111). -/

namespace Sys2Proof.Machine

/-- An instruction in the source's form: a mnemonic and its integer operands (R103). -/
structure Source where
  mnemonic : Mnemonic
  operands : List Int
deriving DecidableEq, Repr

/-- A register operand as its index (R111). -/
def regInt (r : Reg) : Int := (r.val : Int)

/-- A decoded instruction in the source's form (R111): `uint(b)` for LOAD and CMP second operands and for
targets, `sint(b)` for MOV values and STORE addresses. An illegal word has none. -/
def sourceOf : Instr → Option Source
  | .nop => some ⟨.nop, []⟩
  | .mov rd imm => some ⟨.mov, [regInt rd, imm.toInt]⟩
  | .load rd src => some ⟨.load, [regInt rd, (msopWord src).toNat]⟩
  | .store rs addr => some ⟨.store, [regInt rs, addr.toInt]⟩
  | .add rd rs => some ⟨.add, [regInt rd, regInt rs]⟩
  | .sub rd rs => some ⟨.sub, [regInt rd, regInt rs]⟩
  | .and rd rs => some ⟨.and, [regInt rd, regInt rs]⟩
  | .or rd rs => some ⟨.or, [regInt rd, regInt rs]⟩
  | .cmp rl src => some ⟨.cmp, [regInt rl, (msopWord src).toNat]⟩
  | .jeq t => some ⟨.jeq, [(t.toNat : Int)]⟩
  | .jmp t => some ⟨.jmp, [(t.toNat : Int)]⟩
  | .hlt => some ⟨.hlt, []⟩
  | .out rs => some ⟨.out, [regInt rs]⟩
  | .illegal13 => none
  | .illegal14 => none
  | .illegal15 => none

/-- The operands in decimal, separated by commas (R103, R111). -/
def printOperands : List Int → List Char
  | [] => []
  | [z] => decimal z
  | z :: rest => decimal z ++ ',' :: printOperands rest

/-- An instruction's text: `MNEMONIC(op1,op2)`, and the bare mnemonic where there is no operand (R103). -/
def printSource (i : Source) : List Char :=
  if i.operands = [] then i.mnemonic.text
  else i.mnemonic.text ++ '(' :: printOperands i.operands ++ [')']

/-- A hexadecimal digit, upper case as in the spec's own words. DESIGN CHOICE (log entry 17); safe. -/
def hexDigit (n : Nat) : Char := "0123456789ABCDEF".toList.getD n '0'

/-- The low `n` hexadecimal digits of a number. -/
def hexDigits : Nat → Nat → List Char
  | 0, _ => []
  | n + 1, v => hexDigits n (v / 16) ++ [hexDigit (v % 16)]

/-- The text of a word (R111). -/
def disassemble (w : InstrWord) : List Char :=
  match sourceOf (decode w) with
  | some i => printSource i
  | none => "ILLEGAL(0x".toList ++ hexDigits 16 w.toNat ++ [')']

end Sys2Proof.Machine
end

