-- ==== Sys2Proof/Machine/Outputs.lean ====
section
/-! DEFINITION. The outputs of the block (spec/10_state.md R40, R45; spec/60_exceptions.md R235). -/

namespace Sys2Proof.Machine

/-- The derived run status `halted` (R40). -/
def State.haltedStatus (s : State) : Bool :=
  match s.prog with
  | some p => isHltWord s.ir || decide (p.length ≤ s.pc.toNat) || s.err
  | none => decide (s.fsm = .halted)

/-- The snapshot output (R45). -/
structure Snapshot where
  pc : Word
  ir : InstrWord
  x : Vector Word 8
  zero : Bool
  equal : Bool
  cycle : BitVec 64
  temp : Nat
  period : Nat
  err : Bool
  fsm : Fsm
  halted : Bool
deriving DecidableEq, Repr

/-- The snapshot; in OFF the outputs carry no value (R21, R45). -/
def State.snapshot (s : State) : Option Snapshot :=
  if s.fsm = .off then none
  else some
    { pc := s.pc, ir := s.ir, x := s.x, zero := s.flags.zero, equal := s.flags.equal, cycle := s.cycle,
      temp := s.temp, period := s.period, err := s.err, fsm := s.fsm, halted := s.haltedStatus }

/-- The memory snapshot: all 1024 words and the last accessed address (R45, R68). -/
structure MemSnapshot where
  words : List Word
  lastAddr : Option MemIndex
deriving DecidableEq, Repr

/-- The words `mem[0..1023]` in index order (R45). -/
def Memory.allWords (m : Memory) : List Word :=
  (List.range Config.memWords).map fun i => m.readWord (BitVec.ofNat 10 i)

/-- The memory snapshot; in OFF there is none (R21, R68). -/
def State.memSnapshot (s : State) : Option MemSnapshot :=
  if s.fsm = .off then none else some { words := s.mem.allWords, lastAddr := s.lastAddr }

/-- The kernel log output (R45); in OFF there is none. -/
def State.logOutput (s : State) : Option (List LogEvent) := if s.fsm = .off then none else some s.klog

/-- The console output (R45); in OFF there is none. -/
def State.consoleOutput (s : State) : Option (List ConsoleLine) :=
  if s.fsm = .off then none else some s.console

/-- The fault code of a log event (R235): `LOAD_FAULT` 1, `STORE_FAULT` 2, `SOFT_HALT` 3, `ILLEGAL_WORD` 4. -/
def LogEvent.faultCode : LogEvent → Option Nat
  | .memFault .loadFault _ => some 1
  | .memFault .storeFault _ => some 2
  | .softHalt _ => some 3
  | .illegalWord _ _ => some 4
  | .exec _ _ => none
  | .syscallOut _ => none
  | .host _ => none

end Sys2Proof.Machine
end

