-- ==== Sys2Proof/Safety.lean ====
section
/-! DEFINITION. What counts as a safe run, and the terms the statements are written in. -/

namespace Sys2Proof.Machine

/-- A run is at fault when `err = 1` (spec/30_encoding.md R99, spec/60_exceptions.md R233). -/
def State.faulted (s : State) : Bool := s.err

/-- An input event that the block accepts (spec/10_state.md R39, R44): a program of at most `PROG_MAX`
words, a period of `CLOCK_PERIODS`. -/
def Input.admissible : Input → Bool
  | .load program _ _ _ => decide (program.length ≤ Config.progMax.val)
  | .setPeriod p => decide (p ∈ Config.clockPeriods)
  | .tick => true
  | .powerOn => true
  | .bootDone => true
  | .powerOff => true
  | .format => true
  | .hostLog _ => true

/-- The invariant of the machine, a claim of its own in the statements: the legal values of R20 and R32, and
what the driver's rules say of `prog`, `err` and the powered-off core. -/
structure MachineInv (s : State) : Prop where
  /-- memory is in canonical form (R62) -/
  memWf : s.mem.wf = true
  /-- the log holds at most 50 entries (R128) -/
  logBound : s.klog.length ≤ Config.logCap
  /-- the gauge stays in its range (R35) -/
  tempRange : Config.tempMin ≤ s.temp ∧ s.temp ≤ Config.tempMax
  /-- the period is selectable (R36) -/
  periodMember : s.period ∈ Config.clockPeriods
  /-- `flags.zero` is always 0 (R31) -/
  zeroClear : s.flags.zero = false
  /-- a program is loaded exactly in RUNNING (R142) -/
  progIffRunning : s.prog.isSome = true ↔ s.fsm = .running
  /-- a loaded program has at most `PROG_MAX` words (R39) -/
  progBound : ∀ p, s.prog = some p → p.length ≤ Config.progMax.val
  /-- HLT in `ir`, or `err = 1`, only with `pc` inside the program (R238) -/
  stoppedInside : ∀ p, s.prog = some p → s.stopped = true → s.pc.toNat < p.length
  /-- `err` is 1 exactly after the fetch of an illegal word (R33) -/
  errIffIllegal : s.err = isIllegalWord s.ir
  /-- the powered-off core is `fsm = OFF` alone (R21) -/
  offAlone : s.fsm = .off → s = State.poweredOff s.draws s.inputs

/-! ## Frames -/

/-- All registers hold the same. -/
def SameRegs (s t : State) : Prop := ∀ k, t.getReg k = s.getReg k

/-- All registers but `r` hold the same. -/
def SameRegsBut (r : Reg) (s t : State) : Prop := ∀ k, k ≠ r → t.getReg k = s.getReg k

/-- Every byte of memory reads the same. -/
def SameMem (s t : State) : Prop := ∀ a, t.mem.readByte a = s.mem.readByte a

/-- Every byte of memory outside the four cells of word `i` reads the same. -/
def SameMemBut (i : MemIndex) (s t : State) : Prop :=
  ∀ a, a < cellOf i ∨ cellOf i + 4 ≤ a → t.mem.readByte a = s.mem.readByte a

/-- What belongs to the driver and the host holds the same: `cycle`, `temp`, `period`, `fsm`, `prog`, and the
model's own `inputs` and `draws`. -/
def SameDriver (s t : State) : Prop :=
  t.cycle = s.cycle ∧ t.temp = s.temp ∧ t.period = s.period ∧ t.fsm = s.fsm ∧ t.prog = s.prog ∧
    t.inputs = s.inputs ∧ t.draws = s.draws

/-- `ir` and `err` hold the same: the registers that only a fetch, an illegal word or a reset writes. -/
def SameStatus (s t : State) : Prop := t.ir = s.ir ∧ t.err = s.err

/-- The kernel log and the console hold the same. -/
def SameOutput (s t : State) : Prop := t.klog = s.klog ∧ t.console = s.console

/-- The kernel log is the old one with `e` appended, trimmed to its last 50 (R128). -/
def Logged (e : LogEvent) (s t : State) : Prop := t.klog = lastEntries Config.logCap (s.klog ++ [e])

/-! ## Terms about encodings -/

/-- The bits of a word that the decoder reads, by its opcode (spec/30_encoding.md R91, R92, R98). -/
def usedMask (op : BitVec 4) : InstrWord :=
  match op.toNat with
  | 1 => 0xF0000007FFFFFFFF#64
  | 2 => 0xF0000007FFFFFFFF#64
  | 3 => 0xF0000007FFFFFFFF#64
  | 4 => 0xF000000700000007#64
  | 5 => 0xF000000700000007#64
  | 6 => 0xF000000700000007#64
  | 7 => 0xF000000700000007#64
  | 8 => 0xF0000007FFFFFFFF#64
  | 9 => 0xF0000000FFFFFFFF#64
  | 10 => 0xF0000000FFFFFFFF#64
  | 12 => 0xF000000700000000#64
  | _ => 0xF000000000000000#64

/-- The operands the assembler accepts, as the table of R106 and the counts of R105 have them. -/
def AcceptedOperands (m : Mnemonic) (operands : List Int) : Prop :=
  match m, operands with
  | .nop, [] | .hlt, [] => True
  | .mov, [r, v] | .store, [r, v] => (0 ≤ r ∧ r ≤ 7) ∧ -2 ^ 31 ≤ v ∧ v ≤ 2 ^ 31 - 1
  | .load, [r, v] | .cmp, [r, v] => (0 ≤ r ∧ r ≤ 7) ∧ 0 ≤ v ∧ v ≤ 2 ^ 31 - 1
  | .add, [r, v] | .sub, [r, v] | .and, [r, v] | .or, [r, v] => (0 ≤ r ∧ r ≤ 7) ∧ 0 ≤ v ∧ v ≤ 7
  | .jeq, [t] | .jmp, [t] => 0 ≤ t ∧ t ≤ 2 ^ 32 - 1
  | .out, [r] => 0 ≤ r ∧ r ≤ 7
  | _, _ => False

/-! ## Terms about the driver -/

/-- A TICK counts in IDLE, RUNNING and HALTED (R34, R141). -/
def Fsm.counts : Fsm → Bool
  | .off => false
  | .booting => false
  | .idle => true
  | .running => true
  | .halted => true

/-- The (state, input) pairs in which the input is ignored (R141, R145 to R149; `hostLog` is the model's own
input, log entry 10). -/
def ignores : Fsm → Input → Bool
  | .off, .tick => true
  | .booting, .tick => true
  | .off, .powerOn => false
  | _, .powerOn => true
  | .booting, .bootDone => false
  | _, .bootDone => true
  | .off, .powerOff => true
  | .off, .load _ _ _ _ => true
  | .booting, .load _ _ _ _ => true
  | .off, .format => true
  | .booting, .format => true
  | .off, .setPeriod _ => true
  | .off, .hostLog _ => true
  | _, _ => false

/-- The values of R47's column "after POWER_ON", and the driver in BOOTING (R260): `temp` is any draw of its
range. -/
structure PowerOnValues (t : State) : Prop where
  regs : ∀ r, t.getReg r = 0#32
  pc : t.pc = 0#32
  ir : t.ir = 0x0000000000000000#64
  zero : t.flags.zero = false
  equal : t.flags.equal = false
  err : t.err = false
  cycle : t.cycle = 0#64
  temp : 30 ≤ t.temp ∧ t.temp ≤ 85
  period : t.period = Config.clockPeriodDefault
  lastAddr : t.lastAddr = none
  mem : ∀ i, t.mem.readWord i = 0#32
  prog : t.prog = none
  klog : t.klog = []
  console : t.console = []
  fsm : t.fsm = .booting

/-- The outputs carry no value (R21, R45). -/
def NoOutputs (t : State) : Prop :=
  t.snapshot = none ∧ t.memSnapshot = none ∧ t.logOutput = none ∧ t.consoleOutput = none

/-- The part of the state that no rule of the core reads (R35, R36, R41, R129) is erased: the gauge, the
clock period, the kernel log and the console. -/
def State.eraseOutputs (s : State) : State :=
  { s with temp := Config.tempMin, period := Config.clockPeriodDefault, klog := [], console := [], draws := 0 }

/-- What a LOAD leaves at memory index `i`: the value of the last seed whose address is in range and names
`i`, else what stood there (R264, R265). -/
def seededWord (old : Word) (i : MemIndex) : List (Word × Word) → Word
  | [] => old
  | (a, v) :: rest => seededWord (if inRange a ∧ memIndex a = i then v else old) i rest

/-- The fault events of a seed list, in list order: one for each address out of range (R264). -/
def seedFaults : List (Word × Word) → List LogEvent
  | [] => []
  | (a, _) :: rest => if inRange a then seedFaults rest else .memFault .storeFault a :: seedFaults rest

end Sys2Proof.Machine
end

