-- ==== Sys2Proof/Certificates/Slice0/Obligations.lean ====
section
/-! DEFINITION. The statements for the provers. Each docstring names the rules of spec/ it formalises; what
rests on a choice of the model's own says so and names its log entry. -/

open Sys2Proof Sys2Proof.Machine

/-! ## Encoding -/

/-- Decoding the encoding of any well-formed instruction gives it back, every operand at every value the
encoding admits (spec/30_encoding.md R102, R108). -/
def Obligations.DecodeOfEncodeIsIdentity : Prop := ∀ i : Instr, i.wf = true → decode (encode i) = i

/-- R109: an accepted instruction's word decodes to that instruction with its operands, in the forms of R95 (an
operand below 8 as a register: `wf`), and a word whose ignored bits and unused fields are 0 is the encoding of
what it decodes to. -/
def Obligations.EncoderAndDecoderAreInverse : Prop :=
  (∀ m operands w, assemble m operands = .ok w →
    sourceOf (decode w) = some ⟨m, operands⟩ ∧ (decode w).wf = true) ∧
    ∀ w : InstrWord, canonicalWord w = true → encode (decode w) = w

/-- R98: two words that agree on the bits R92 gives a meaning decode alike. -/
def Obligations.DecoderIgnoresUnusedBits : Prop :=
  ∀ w w' : InstrWord, w &&& usedMask (opField w) = w' &&& usedMask (opField w) → decode w = decode w'

/-- R97, R102: every word decodes to a well-formed instruction; no immediate below 8 comes out. -/
def Obligations.EveryWordDecodesWellFormed : Prop := ∀ w : InstrWord, (decode w).wf = true

/-- The words of R108's examples and of spec/95_test_vectors.md 2.1 decode as written there. -/
def Obligations.SpecWordsDecode : Prop :=
  decode 0x100000000000000F#64 = .mov 0 15#32 ∧ decode 0x2000000200000005#64 = .load 2 (.reg 5) ∧
    decode 0x2000000100000008#64 = .load 1 (.imm 8#32) ∧
    decode 0x30000001FFFFFFFF#64 = .store 1 0xFFFFFFFF#32 ∧ decode 0x40000000FFFFFFF9#64 = .add 0 1 ∧
    decode 0x800000010000002A#64 = .cmp 1 (.imm 42#32) ∧ decode 0x9000000000000007#64 = .jeq 7#32 ∧
    decode 0xB000000000000000#64 = .hlt ∧ decode 0xC0000003FFFFFFFF#64 = .out 3 ∧
    decode 0xE123456789ABCDEF#64 = .illegal14

/-- The assembler accepts an instruction exactly when its operand count and ranges are those of the tables
(R105, R106). -/
def Obligations.AssemblerAcceptsExactlyTheRanges : Prop :=
  ∀ m operands, (∃ w, assemble m operands = .ok w) ↔ AcceptedOperands m operands

/-! ## Memory -/

/-- R63: the signed bounds check is the unsigned one, and the accessed index is the address. -/
def Obligations.BoundsCheckIsUnsignedLess : Prop :=
  ∀ a : Word, (inRange a = true ↔ 0 ≤ a.toInt ∧ a.toInt < 1024) ∧ (inRange a = true ↔ a.toNat < 1024) ∧
    (inRange a = true → (memIndex a).toNat = a.toNat)

/-- A word write is read back, and leaves every other word alone (R64, R65, R75). -/
def Obligations.WordReadAfterWrite : Prop :=
  ∀ (m : Memory) (i j : MemIndex) (v : Word), m.wf = true →
    (m.writeWord i v).readWord j = if j = i then v else m.readWord j

/-- Two memories in canonical form that read alike at every word are the same data: the model's choice of
layout (log entry 1) loses and adds nothing. -/
def Obligations.EqualWordsEqualMemory : Prop :=
  ∀ m m' : Memory, m.wf = true → m'.wf = true → (∀ i, m.readWord i = m'.readWord i) → m = m'

/-- R95, R96: the value of a mode-sensitive operand word is the register it names below 8, else itself. -/
def Obligations.DualOperandConvention : Prop :=
  ∀ (s : State) (b : Word),
    s.operand (msop b) = if h : b.toNat < 8 then s.getReg ⟨b.toNat, h⟩ else b

/-! ## Data movement -/

/-- R160: NOP completes, advances `pc` and changes nothing else. -/
def Obligations.NopOnlyAdvances : Prop :=
  ∀ s, ∃ t, exec .nop s = .next t ∧ t.pc = s.pc + 1#32 ∧ SameRegs s t ∧ t.flags = s.flags ∧ SameMem s t ∧
    t.lastAddr = s.lastAddr ∧ SameStatus s t ∧ SameOutput s t ∧ SameDriver s t

/-- R163: MOV completes; the destination holds the value, everything else but `pc` is unchanged. -/
def Obligations.MovWritesImmediate : Prop :=
  ∀ rd v s, ∃ t, exec (.mov rd v) s = .next t ∧ t.getReg rd = v ∧ SameRegsBut rd s t ∧ t.pc = s.pc + 1#32 ∧
    t.flags = s.flags ∧ SameMem s t ∧ t.lastAddr = s.lastAddr ∧ SameStatus s t ∧ SameOutput s t ∧
    SameDriver s t

/-- R164: LOAD in range completes for both operand forms; the destination holds the word read. -/
def Obligations.LoadReadsWordInRange : Prop :=
  ∀ rd src s, inRange (s.operand src) = true →
    ∃ t, exec (.load rd src) s = .next t ∧ t.getReg rd = s.mem.readWord (memIndex (s.operand src)) ∧
      t.lastAddr = some (memIndex (s.operand src)) ∧ t.pc = s.pc + 1#32 ∧ SameRegsBut rd s t ∧
      t.flags = s.flags ∧ SameMem s t ∧ SameStatus s t ∧ SameOutput s t ∧ SameDriver s t

/-- R167: STORE in range completes; the word at its address holds the register, every byte outside that
word's four cells reads as before. `mem.wf` is the invariant `MachineInv.memWf`. -/
def Obligations.StoreWritesWordInRange : Prop :=
  ∀ rs addr s, s.mem.wf = true → inRange addr = true →
    ∃ t, exec (.store rs addr) s = .next t ∧ t.mem.readWord (memIndex addr) = s.getReg rs ∧
      SameMemBut (memIndex addr) s t ∧ t.lastAddr = some (memIndex addr) ∧ t.pc = s.pc + 1#32 ∧
      SameRegs s t ∧ t.flags = s.flags ∧ SameStatus s t ∧ SameOutput s t ∧ SameDriver s t

/-- R166: LOAD and STORE out of range complete; memory is unchanged, the fault event is logged, `pc` advances,
and nothing else changes. -/
def Obligations.OutOfRangeAccessOnlyLogs : Prop :=
  (∀ rd src s, inRange (s.operand src) = false →
    ∃ t, exec (.load rd src) s = .next t ∧ SameMem s t ∧ Logged (.memFault .loadFault (s.operand src)) s t ∧
      t.pc = s.pc + 1#32 ∧ SameRegs s t ∧ t.lastAddr = s.lastAddr ∧ t.flags = s.flags ∧ SameStatus s t ∧
      t.console = s.console ∧ SameDriver s t) ∧
  ∀ rs addr s, inRange addr = false →
    ∃ t, exec (.store rs addr) s = .next t ∧ SameMem s t ∧ Logged (.memFault .storeFault addr) s t ∧
      t.pc = s.pc + 1#32 ∧ SameRegs s t ∧ t.lastAddr = s.lastAddr ∧ t.flags = s.flags ∧ SameStatus s t ∧
      t.console = s.console ∧ SameDriver s t

/-- R169: a STORE followed by a LOAD of the same in-range index returns the stored word, by either operand
form, and the memory snapshot shows it after the STORE. -/
def Obligations.StoreThenLoadReturnsWord : Prop :=
  ∀ rs addr rd src s t, s.mem.wf = true → inRange addr = true → exec (.store rs addr) s = .next t →
    t.mem.allWords[(memIndex addr).toNat]? = some (s.getReg rs) ∧
      (inRange (t.operand src) = true → memIndex (t.operand src) = memIndex addr →
        ∃ u, exec (.load rd src) t = .next u ∧ u.getReg rd = s.getReg rs)

/-! ## ALU -/

/-- R181: ADD completes; the destination holds the sum modulo `2^32`, also when both operands name one
register; everything else but `pc` is unchanged. -/
def Obligations.AddWritesSum : Prop :=
  ∀ rd rs s, ∃ t, exec (.add rd rs) s = .next t ∧ t.getReg rd = s.getReg rd + s.getReg rs ∧
    SameRegsBut rd s t ∧ t.flags = s.flags ∧ t.pc = s.pc + 1#32 ∧ SameMem s t ∧ t.lastAddr = s.lastAddr ∧
    SameStatus s t ∧ SameOutput s t ∧ SameDriver s t

/-- R184, R185, R186: SUB, AND and OR complete with ADD's frame and their own result. -/
def Obligations.SubAndOrWriteResult : Prop :=
  ∀ rd rs s i r, (i = .sub rd rs ∧ r = s.getReg rd - s.getReg rs) ∨
      (i = .and rd rs ∧ r = s.getReg rd &&& s.getReg rs) ∨
      (i = .or rd rs ∧ r = s.getReg rd ||| s.getReg rs) →
    ∃ t, exec i s = .next t ∧ t.getReg rd = r ∧ SameRegsBut rd s t ∧ t.flags = s.flags ∧
      t.pc = s.pc + 1#32 ∧ SameMem s t ∧ t.lastAddr = s.lastAddr ∧ SameStatus s t ∧ SameOutput s t ∧
      SameDriver s t

/-- R187: under the `nop` reading SUB, AND and OR advance `pc` and change nothing else; under both readings
nothing but `pc` and the destination changes: no flag, no event, no other register, no byte of memory. -/
def Obligations.ReservedReadingsAgreeButForResult : Prop :=
  ∀ (s : State) (op : AluOp) (rd rs : Reg), s.reservedAluStep .nop op rd rs = { s with pc := s.pc + 1#32 } ∧
    ∀ sem t, t = s.reservedAluStep sem op rd rs →
      t.pc = s.pc + 1#32 ∧ SameRegsBut rd s t ∧ t.flags = s.flags ∧ SameMem s t ∧ t.lastAddr = s.lastAddr ∧
        SameStatus s t ∧ SameOutput s t ∧ SameDriver s t

/-- R191: CMP completes and sets `flags.equal` true exactly when the register equals the operand's value;
everything else but `pc` is unchanged. -/
def Obligations.CmpSetsEqualFlag : Prop :=
  ∀ (r : Reg) (b : Word) (s : State), ∃ t, exec (.cmp r (msop b)) s = .next t ∧
    (t.flags.equal = true ↔ s.getReg r = if h : b.toNat < 8 then s.getReg ⟨b.toNat, h⟩ else b) ∧
    t.flags.zero = s.flags.zero ∧ t.pc = s.pc + 1#32 ∧ SameRegs s t ∧ SameMem s t ∧
    t.lastAddr = s.lastAddr ∧ SameStatus s t ∧ SameOutput s t ∧ SameDriver s t

/-! ## Control transfer, console, illegal words -/

/-- R201: JEQ completes and goes to its target exactly when `flags.equal` holds; nothing but `pc` changes. -/
def Obligations.JeqFollowsEqualFlag : Prop :=
  ∀ target s, ∃ t, exec (.jeq target) s = .next t ∧
    t.pc = (if s.flags.equal = true then target else s.pc + 1#32) ∧ SameRegs s t ∧ t.flags = s.flags ∧
    SameMem s t ∧ t.lastAddr = s.lastAddr ∧ SameStatus s t ∧ SameOutput s t ∧ SameDriver s t

/-- R203: JMP completes and goes to its target; nothing but `pc` changes. -/
def Obligations.JmpSetsPc : Prop :=
  ∀ target s, ∃ t, exec (.jmp target) s = .next t ∧ t.pc = target ∧ SameRegs s t ∧ t.flags = s.flags ∧
    SameMem s t ∧ t.lastAddr = s.lastAddr ∧ SameStatus s t ∧ SameOutput s t ∧ SameDriver s t

/-- R205: HLT completes and changes nothing, `pc` included. -/
def Obligations.HltChangesNothing : Prop := ∀ s, exec .hlt s = .next s

/-- R220, R223: OUT completes; one console line, one word on the console port, the SYSCALL_OUT event, and
nothing else but `pc` changes. -/
def Obligations.OutPrintsRegister : Prop :=
  ∀ rs s, ∃ t, exec (.out rs) s = .next t ∧ t.console = s.console ++ [.word (s.getReg rs)] ∧
    portWords t.console = portWords s.console ++ [s.getReg rs] ∧ Logged (.syscallOut (s.getReg rs)) s t ∧
    t.pc = s.pc + 1#32 ∧ SameRegs s t ∧ t.flags = s.flags ∧ SameMem s t ∧ t.lastAddr = s.lastAddr ∧
    SameStatus s t ∧ SameDriver s t

/-- R222: the console line of a word is its signed decimal: read as an integer of R103 it gives `sint(v)`, and it
has no leading zeros. -/
def Obligations.ConsoleLineIsSignedDecimal : Prop :=
  ∀ v : Word, readInt (ConsoleLine.word v).text = some v.toInt ∧
    (∀ rest, (ConsoleLine.word v).text = '0' :: rest → rest = []) ∧
    ∀ rest, (ConsoleLine.word v).text ≠ '-' :: '0' :: rest

/-- R99: an illegal word completes with `err = 1` and its event, and nothing else changes, `pc` included. The
word of the event is `ir`, where the fetch put it (log entry 14). -/
def Obligations.IllegalWordsSetErr : Prop :=
  ∀ i s, i = .illegal13 ∨ i = .illegal14 ∨ i = .illegal15 →
    ∃ t, exec i s = .next t ∧ t.err = true ∧ Logged (.illegalWord s.pc s.ir) s t ∧ t.pc = s.pc ∧
      t.ir = s.ir ∧ SameRegs s t ∧ t.flags = s.flags ∧ SameMem s t ∧ t.lastAddr = s.lastAddr ∧
      t.console = s.console ∧ SameDriver s t

/-! ## All instructions -/

/-- R126: every instruction completes in every state. -/
def Obligations.EveryInstructionCompletes : Prop := ∀ i s, ∃ t, exec i s = .next t

/-- R27: how each instruction changes `pc`, and that a soft-halt step leaves it. -/
def Obligations.PcAfterEachInstruction : Prop :=
  (∀ i s t, exec i s = .next t →
    t.pc = match i with
      | .jeq target => if s.flags.equal = true then target else s.pc + 1#32
      | .jmp target => target
      | .hlt | .illegal13 | .illegal14 | .illegal15 => s.pc
      | _ => s.pc + 1#32) ∧
  ∀ s p, s.prog = some p → p.length ≤ s.pc.toNat → ∃ t, engineStep s = .next t ∧ t.pc = s.pc

/-- R23: only MOV, LOAD, ADD, SUB, AND and OR write a register, and only their first operand; LOAD only when
its address is in range. -/
def Obligations.RegisterWritersAndTheirRegister : Prop :=
  ∀ i s t, exec i s = .next t →
    match i with
    | .mov rd _ | .add rd _ | .sub rd _ | .and rd _ | .or rd _ => SameRegsBut rd s t
    | .load rd src => SameRegsBut rd s t ∧ (inRange (s.operand src) = false → SameRegs s t)
    | _ => SameRegs s t

/-- R30, R31: only CMP writes `flags.equal`, and no instruction writes `flags.zero`. -/
def Obligations.OnlyCmpWritesFlags : Prop :=
  ∀ i s t, exec i s = .next t →
    t.flags.zero = s.flags.zero ∧ ((∀ r src, i ≠ .cmp r src) → t.flags.equal = s.flags.equal)

/-- R32, R39, R78: no instruction changes the driver's registers, the program or `ir`. -/
def Obligations.InstructionsLeaveDriverState : Prop :=
  ∀ i s t, exec i s = .next t → SameDriver s t ∧ t.ir = s.ir

/-- R66: `last_addr` becomes the index of an in-range LOAD or STORE, and no other instruction changes it. -/
def Obligations.LastAddrOnlyByInRangeAccess : Prop :=
  ∀ i s t, exec i s = .next t →
    t.lastAddr = match i with
      | .load _ src => if inRange (s.operand src) = true then some (memIndex (s.operand src)) else s.lastAddr
      | .store _ addr => if inRange addr = true then some (memIndex addr) else s.lastAddr
      | _ => s.lastAddr

/-- R62, R73: in a well-formed memory an instruction changes at most the word of an in-range STORE. -/
def Obligations.OnlyStoreWritesMemory : Prop :=
  ∀ i s t, s.mem.wf = true → exec i s = .next t →
    match i with
    | .store _ addr => (inRange addr = true → SameMemBut (memIndex addr) s t) ∧ (inRange addr = false → SameMem s t)
    | _ => SameMem s t

/-- R128: the log events each instruction appends after its EXEC event, and R221: the console line of OUT. The
word of ILLEGAL_WORD is `ir`, where the fetch put it (DEDUCED, log entry 14). -/
def Obligations.EventsOfEachInstruction : Prop :=
  ∀ i s t, exec i s = .next t →
    (match i with
      | .load _ src =>
        if inRange (s.operand src) = true then t.klog = s.klog
        else Logged (.memFault .loadFault (s.operand src)) s t
      | .store _ addr => if inRange addr = true then t.klog = s.klog else Logged (.memFault .storeFault addr) s t
      | .out rs => Logged (.syscallOut (s.getReg rs)) s t
      | .illegal13 | .illegal14 | .illegal15 => Logged (.illegalWord s.pc s.ir) s t
      | _ => t.klog = s.klog) ∧
    t.console = s.console ++ match i with
      | .out rs => [.word (s.getReg rs)]
      | _ => []

/-- R33: `err` becomes 1 by an illegal word alone, and no instruction clears it. -/
def Obligations.ErrSetOnlyByIllegalWord : Prop :=
  ∀ i s t, exec i s = .next t →
    (t.err = true ↔ s.err = true ∨ i = .illegal13 ∨ i = .illegal14 ∨ i = .illegal15)

/-! ## The engine step -/

/-- R123, R125: the fetch writes `ir` and logs EXEC with the index and the word, and nothing else changes. -/
def Obligations.FetchWritesIrAndLogs : Prop :=
  ∀ (s : State) (w : InstrWord), s.fetch w =
    { s with ir := w, klog := lastEntries 50 (s.klog ++ [.exec s.pc w]) }

/-- A TICK in RUNNING, not stopped and with `pc` inside the program, runs the decoded instruction on the
state that has counted the tick and fetched the word (R121, R125, R141). -/
def Obligations.StepRunsDecodedInstruction : Prop :=
  ∀ s p w i, s.nextInput = .tick → s.fsm = .running → s.prog = some p → s.stopped = false →
    p[s.pc.toNat]? = some w → decode w = i → i.wf = true → step s = exec i (s.takeInput.count.fetch w)

/-- R122: with `pc` at or past the program's end every engine step logs one SOFT_HALT and changes nothing
else, on every call. -/
def Obligations.SoftHaltRecursOnEveryCall : Prop :=
  ∀ s p n, s.prog = some p → p.length ≤ s.pc.toNat →
    engineRun (n + 1) s =
      .next { s with klog := lastEntries 50 (s.klog ++ List.replicate (n + 1) (.softHalt s.pc)) }

/-- R127: repeated engine steps on HLT, or on an illegal word, leave all state identical but for fresh log
lines on each call. -/
def Obligations.HaltingWordRepeats : Prop :=
  ∀ s p w n, s.prog = some p → p[s.pc.toNat]? = some w →
    (isHltWord w = true → engineRun (n + 1) s =
      .next { s with ir := w, klog := lastEntries 50 (s.klog ++ List.replicate (n + 1) (.exec s.pc w)) }) ∧
    (isIllegalWord w = true → engineRun (n + 1) s =
      .next { s with
        ir := w
        err := true
        klog := lastEntries 50
          (s.klog ++ (List.replicate (n + 1) [LogEvent.exec s.pc w, .illegalWord s.pc w]).flatten) })

/-- R236: an engine step appends at most one of the four fault events to the log. -/
def Obligations.AtMostOneFaultEventPerStep : Prop :=
  ∀ s t, engineStep s = .next t → ∃ events, t.klog = lastEntries 50 (s.klog ++ events) ∧
    (events.filterMap LogEvent.faultCode).length ≤ 1

/-- R28: `pc + 1` does not wrap where it is computed, inside a program of at most `2^32 - 1` words. -/
def Obligations.PcIncrementNeverWraps : Prop :=
  ∀ (s : State) p, s.prog = some p → p.length ≤ 2 ^ 32 - 1 → s.pc.toNat < p.length →
    s.advance.pc.toNat = s.pc.toNat + 1

/-! ## The clock driver

The input that a step applies is the next one of the model's own list (log entry 4). -/

/-- R34: `cycle` counts the ticks of IDLE, RUNNING and HALTED and nothing else, modulo `2^64`, from 0 at
power-on. (After POWER_OFF it does not exist, R21.) R141, R143: a TICK in IDLE or HALTED completes and only
counts. R34, R35: the counting moves `cycle` and puts a value of the gauge's range into `temp`, and changes
nothing else but the model's `draws` (log entry 5). -/
def Obligations.CycleCountsTicks : Prop :=
  ∀ s : State,
    (∀ t, step s = .next t → s.nextInput ≠ .powerOff →
      t.cycle =
        if s.nextInput = .tick ∧ s.fsm.counts = true then s.cycle + 1#64
        else if s.nextInput = .powerOn ∧ s.fsm = .off then 0#64
        else s.cycle) ∧
    (s.nextInput = .tick → s.fsm = .idle ∨ s.fsm = .halted → step s = .next s.takeInput.count) ∧
    ∃ d, 30 ≤ d ∧ d ≤ 85 ∧ s.count = { s with cycle := s.cycle + 1#64, temp := d, draws := s.draws + 1 }

/-- R140: the transition table of the clock driver; every other pair leaves `fsm` where it is. -/
def Obligations.FsmFollowsTransitionTable : Prop :=
  ∀ s t, step s = .next t →
    t.fsm = match s.fsm, s.nextInput with
      | .off, .powerOn => .booting
      | .booting, .bootDone => .idle
      | .idle, .load _ _ _ _ | .running, .load _ _ _ _ | .halted, .load _ _ _ _ => .running
      | .idle, .format | .running, .format | .halted, .format => .idle
      | .booting, .powerOff | .idle, .powerOff | .running, .powerOff | .halted, .powerOff => .off
      | .running, .tick =>
        if isHltWord s.ir = true ∨ s.err = true ∨ (s.prog.getD []).length ≤ s.pc.toNat then .halted
        else .running
      | f, _ => f

/-- R150: an ignored input changes no state; only the model's list of inputs loses it (log entry 4). The pair of
OFF and the model's HOST input is the model's choice (log entry 10), and so is the second clause: in a powered
state that input appends its event to the log and changes nothing else. -/
def Obligations.IgnoredInputsChangeNothing : Prop :=
  ∀ s : State, (ignores s.fsm s.nextInput = true → step s = .next s.takeInput) ∧
    ∀ text, s.fsm ≠ .off → s.nextInput = .hostLog text →
      step s = .next { s.takeInput with klog := lastEntries 50 (s.klog ++ [.host text]) }

/-- R143, R152: the tick that executes HLT or an illegal word stays in RUNNING with `halted` true; the next tick
enters HALTED, discards the program without a step, and keeps everything else but the counting. -/
def Obligations.HaltIsDetectedOneTickLater : Prop :=
  ∀ s p w, s.nextInput = .tick → s.fsm = .running → s.prog = some p → s.stopped = false →
    p[s.pc.toNat]? = some w → isHltWord w = true ∨ isIllegalWord w = true →
    ∃ t, step s = .next t ∧ t.fsm = .running ∧ t.ir = w ∧ t.pc = s.pc ∧ t.err = isIllegalWord w ∧
      t.haltedStatus = true ∧ t.period = s.period ∧
      (t.nextInput = .tick → ∃ u, step t = .next u ∧ u.fsm = .halted ∧ u.prog = none ∧ u.haltedStatus = true ∧
        u.cycle = t.cycle + 1#64 ∧ u.period = t.period ∧ u.pc = t.pc ∧ u.x = t.x ∧ u.flags = t.flags ∧ u.mem = t.mem ∧
        u.lastAddr = t.lastAddr ∧ SameStatus t u ∧ SameOutput t u)

/-- R144, R232: a tick that finds `pc` at or past the program's end logs one SOFT_HALT, enters HALTED and
discards the program, and changes nothing else but the counting. -/
def Obligations.OverrunHaltsOnItsTick : Prop :=
  ∀ s p, s.nextInput = .tick → s.fsm = .running → s.prog = some p → s.stopped = false →
    p.length ≤ s.pc.toNat →
    ∃ t, step s = .next t ∧ t.fsm = .halted ∧ t.prog = none ∧ Logged (.softHalt s.pc) s t ∧
      t.cycle = s.cycle + 1#64 ∧ t.period = s.period ∧ t.pc = s.pc ∧ t.x = s.x ∧ t.flags = s.flags ∧ t.mem = s.mem ∧
      t.lastAddr = s.lastAddr ∧ SameStatus s t ∧ t.console = s.console

/-- R39: the program is written by LOAD alone and discarded by a halting tick, FORMAT and power events alone;
while loaded no step changes a word of it. -/
def Obligations.LoadedProgramIsImmutable : Prop :=
  ∀ s t, step s = .next t →
    t.prog = s.prog ∨
      (∃ p seeds remarks banner, s.nextInput = .load p seeds remarks banner ∧ t.prog = some p) ∨
      (t.prog = none ∧ ((s.nextInput = .tick ∧ t.fsm = .halted) ∨ s.nextInput = .format ∨
        s.nextInput = .powerOff ∨ s.nextInput = .powerOn))

/-! ## Power, load, format -/

/-- R260: POWER_ON in OFF completes and creates the values of R47, in BOOTING. -/
def Obligations.PowerOnCreatesResetValues : Prop :=
  ∀ s, s.fsm = .off → s.nextInput = .powerOn → ∃ t, step s = .next t ∧ PowerOnValues t

/-- R47, R260: the state after reset has the values of POWER_ON. (That reset is POWER_ON is the model's reading,
log entry 2.) -/
def Obligations.ResetHasPowerOnValues : Prop := PowerOnValues State.reset

/-- R268: POWER_OFF in a powered state discards every piece of state: what is left is `fsm = OFF`, no output
carries a value, and nothing of the state before but the model's own `draws` and `inputs` enters. The placeholders of the
powered-off state are the model's choice (log entry 9). -/
def Obligations.PowerOffDiscardsAllState : Prop :=
  ∀ s, s.fsm ≠ .off → s.nextInput = .powerOff →
    step s = .next (State.poweredOff s.draws s.inputs.tail) ∧
      (State.poweredOff s.draws s.inputs.tail).fsm = .off ∧ NoOutputs (State.poweredOff s.draws s.inputs.tail)

/-- R269: a power cycle returns the core to the power-on state: two cores that differ in anything but the
model's own `draws` are the same after it, and hold the values of POWER_ON. -/
def Obligations.PowerCycleForgetsEverything : Prop :=
  ∀ s s' rest, s.fsm ≠ .off → s'.fsm ≠ .off → s.inputs = .powerOff :: .powerOn :: rest →
    s'.inputs = .powerOff :: .powerOn :: rest → s.draws = s'.draws →
    ∃ t t' u, step s = .next t ∧ step s' = .next t' ∧ step t = .next u ∧ step t' = .next u ∧ PowerOnValues u

/-- R263, R264, R265: LOAD in IDLE, RUNNING or HALTED completes; the machine state is reset, the program
installed, memory overwritten exactly at the in-range seeded addresses, the later seed winning, an event for
each seed out of range, and the rest kept. `mem.wf` and the log's bound are the invariants `MachineInv.memWf` and
`MachineInv.logBound`; the loader's lines are the input's (log entry 10). -/
def Obligations.LoadInstallsProgramAndSeeds : Prop :=
  ∀ s program seeds remarks banner, s.mem.wf = true → s.klog.length ≤ 50 →
    s.fsm = .idle ∨ s.fsm = .running ∨ s.fsm = .halted →
    s.nextInput = .load program seeds remarks banner → program.length ≤ Config.progMax.val →
    ∃ t, step s = .next t ∧ (∀ r, t.getReg r = 0#32) ∧ t.pc = 0#32 ∧ t.flags.zero = false ∧
      t.flags.equal = false ∧ t.ir = 0x0000000000000000#64 ∧ t.err = false ∧ t.lastAddr = none ∧
      t.prog = some program ∧ t.fsm = .running ∧
      (∀ i, t.mem.readWord i = seededWord (s.mem.readWord i) i seeds) ∧ t.cycle = s.cycle ∧
      t.temp = s.temp ∧ t.period = s.period ∧
      t.klog = lastEntries 50 (s.klog ++ seedFaults seeds ++ remarks.map .host) ∧
      t.console = s.console ++ banner.map .banner

/-- D8: a program longer than PROG_MAX is refused where a LOAD is accepted. -/
def Obligations.TooLongProgramIsRefused : Prop :=
  ∀ s program seeds remarks banner, s.fsm = .idle ∨ s.fsm = .running ∨ s.fsm = .halted →
    s.nextInput = .load program seeds remarks banner → Config.progMax.val < program.length →
    step s = .refused .programTooLong

/-- R266, R267: FORMAT in IDLE, RUNNING or HALTED completes; memory is 0, the machine state reset, the program
discarded, IDLE entered, and `cycle`, `temp`, `period`, the log and the console kept. -/
def Obligations.FormatZeroesMemoryAndIdles : Prop :=
  ∀ s, s.fsm = .idle ∨ s.fsm = .running ∨ s.fsm = .halted → s.nextInput = .format →
    ∃ t, step s = .next t ∧ (∀ i, t.mem.readWord i = 0#32) ∧ (∀ r, t.getReg r = 0#32) ∧ t.pc = 0#32 ∧
      t.flags.zero = false ∧ t.flags.equal = false ∧ t.ir = 0x0000000000000000#64 ∧ t.err = false ∧
      t.lastAddr = none ∧ t.prog = none ∧ t.fsm = .idle ∧ t.cycle = s.cycle ∧ t.temp = s.temp ∧
      t.period = s.period ∧ SameOutput s t

/-- R147: SET_PERIOD of a member of CLOCK_PERIODS writes `period` in every state but OFF and changes nothing
else; in OFF it is ignored. -/
def Obligations.SetPeriodWritesOnlyPeriod : Prop :=
  ∀ s p, p ∈ Config.clockPeriods → s.nextInput = .setPeriod p →
    (s.fsm ≠ .off → step s = .next { s.takeInput with period := p }) ∧
      (s.fsm = .off → step s = .next s.takeInput)

/-- R145: BOOT_DONE moves BOOTING to IDLE and changes nothing else. -/
def Obligations.BootDoneEntersIdle : Prop :=
  ∀ s, s.fsm = .booting → s.nextInput = .bootDone → step s = .next { s.takeInput with fsm := .idle }

/-! ## The whole machine -/

/-- The invariant `MachineInv` holds after reset. -/
def Obligations.ResetSatisfiesInvariant : Prop := MachineInv State.reset

/-- Every step keeps the invariant `MachineInv`: canonical memory, the log's bound, the gauge's range, a selectable
period, `flags.zero` clear (R31), a program loaded exactly in RUNNING (R142), its length bound (R39), a stopped
engine with `pc` inside the program (R238), `err` exactly with an illegal word in `ir` (R33), and the
powered-off core being `fsm = OFF` alone (R21). -/
def Obligations.StepKeepsInvariant : Prop := ∀ s t, MachineInv s → step s = .next t → MachineInv t

/-- R126, R142: in a state of the invariant every admissible input gives a next state: no fault, no refusal. -/
def Obligations.StepAlwaysReturns : Prop :=
  ∀ s, MachineInv s → s.nextInput.admissible = true → ∃ t, step s = .next t

/-- R35, R36, R41, R129: the gauge, the clock period, the kernel log and the console have no effect on anything
else: two states that differ in these alone (and in the model's `draws`) step alike up to these. -/
def Obligations.OutputsHaveNoEffect : Prop :=
  ∀ s s' : State, s.eraseOutputs = s'.eraseOutputs →
    (∀ t, step s = .next t → ∃ t', step s' = .next t' ∧ t.eraseOutputs = t'.eraseOutputs) ∧
      (∀ r, step s = .fault r → step s' = .fault r) ∧ ∀ r, step s = .refused r → step s' = .refused r
end

