-- ==== Sys2Proof/Laws/Decode.lean ====
section
/-! SUPPORT. The fields of a packed word, and the operand forms of an encoded register. -/

namespace Sys2Proof

@[simp] theorem opField_packWord (op : BitVec 4) (ra : BitVec 3) (b : Word) :
    opField (packWord op ra b) = op := by
  ext i hi
  simp only [opField, packWord, BitVec.getElem_extractLsb', BitVec.getLsbD_append]
  have h1 : ¬ 60 + i < 32 := by omega
  have h2 : ¬ 60 + i - 32 < 3 := by omega
  have h3 : ¬ 60 + i - 32 - 3 < 25 := by omega
  have h4 : 60 + i - 32 - 3 - 25 = i := by omega
  simp [h1, h2, h3, h4, BitVec.getLsbD_eq_getElem hi]

@[simp] theorem raField_packWord (op : BitVec 4) (ra : BitVec 3) (b : Word) :
    raField (packWord op ra b) = ra.toFin := by
  have h : (packWord op ra b).extractLsb' 32 3 = ra := by
    ext i hi
    simp only [packWord, BitVec.getElem_extractLsb', BitVec.getLsbD_append]
    have h1 : ¬ 32 + i < 32 := by omega
    have h2 : 32 + i - 32 < 3 := by omega
    have h3 : 32 + i - 32 = i := by omega
    simp [h3, hi]
  simp [raField, h]

@[simp] theorem bField_packWord (op : BitVec 4) (ra : BitVec 3) (b : Word) :
    bField (packWord op ra b) = b := by
  ext i hi
  simp only [bField, packWord, BitVec.getElem_extractLsb', BitVec.getLsbD_append, Nat.zero_add, hi]
  simp [BitVec.getLsbD_eq_getElem hi]

@[simp] theorem ignField_packWord (op : BitVec 4) (ra : BitVec 3) (b : Word) :
    (packWord op ra b).extractLsb' 35 25 = 0#25 := by
  ext i hi
  simp only [packWord, BitVec.getElem_extractLsb', BitVec.getLsbD_append]
  have h1 : ¬ 35 + i < 32 := by omega
  have h2 : ¬ 35 + i - 32 < 3 := by omega
  have h3 : 35 + i - 32 - 3 < 25 := by omega
  simp [h1, h2, h3]

@[simp] theorem regBits_toFin (r : Reg) : (regBits r).toFin = r := rfl

theorem regWord_toNat : ∀ r : Reg, (regWord r).toNat = r.val := by decide

@[simp] theorem regOf_regWord : ∀ r : Reg, regOf (regWord r) = r := by decide

/-- An operand below 8 is the zero-extended index of the register it names. -/
theorem regWord_regOf (b : Word) (h : b.toNat < Config.nreg) : regWord (regOf b) = b := by
  have key : ∀ n : Fin 8, regWord (regOf (BitVec.ofNat 32 n.val)) = BitVec.ofNat 32 n.val := by decide
  have hb : BitVec.ofNat 32 b.toNat = b := by simp
  have h8 := key ⟨b.toNat, h⟩
  simpa only [hb] using h8

end Sys2Proof
end

