-- ==== Sys2Proof/Laws/Memory.lean ====
section
/-! SUPPORT. The memory cells: what a read gives after a write, and that every operation keeps the
canonical form. -/

namespace Sys2Proof.Machine

theorem Memory.wfFrom_cons {low k : Nat} {v : Byte} {m : Memory} :
    Memory.wfFrom low ((k, v) :: m) = true ↔
      low ≤ k ∧ k < 4096 ∧ v ≠ 0#8 ∧ Memory.wfFrom (k + 1) m = true := by
  simp only [Memory.wfFrom, Config.memWords, Bool.and_eq_true, decide_eq_true_eq, bne_iff_ne]
  tauto

/-- A lower bound of the addresses may be lowered. -/
theorem Memory.wfFrom_mono {low low' : Nat} (h : low' ≤ low) :
    ∀ {m : Memory}, Memory.wfFrom low m = true → Memory.wfFrom low' m = true
  | [], _ => rfl
  | (_, _) :: _, hm => by
    rw [Memory.wfFrom_cons] at hm ⊢
    exact ⟨by omega, hm.2⟩

/-- Below the lowest listed address every cell reads 0. -/
theorem Memory.readByte_below {a : Nat} :
    ∀ {low : Nat} {m : Memory}, Memory.wfFrom low m = true → a < low → m.readByte a = 0#8
  | _, [], _, _ => rfl
  | low, (k, v) :: rest, hm, ha => by
    rw [Memory.wfFrom_cons] at hm
    have hk : ¬ k = a := by omega
    simp only [Memory.readByte, if_neg hk]
    exact Memory.readByte_below hm.2.2.2 (by omega)

/-- Past the last cell every address reads 0. -/
theorem Memory.readByte_above {a : Nat} (ha : 4096 ≤ a) :
    ∀ {low : Nat} {m : Memory}, Memory.wfFrom low m = true → m.readByte a = 0#8
  | _, [], _ => rfl
  | low, (k, v) :: rest, hm => by
    rw [Memory.wfFrom_cons] at hm
    have hk : ¬ k = a := by omega
    simp only [Memory.readByte, if_neg hk]
    exact Memory.readByte_above ha hm.2.2.2

theorem Memory.readByte_consCell {a b low : Nat} {v : Byte} {m : Memory}
    (hm : Memory.wfFrom low m = true) (ha : a < low) :
    (Memory.consCell a v m).readByte b = if b = a then v else m.readByte b := by
  unfold Memory.consCell
  by_cases hv : v = 0#8
  · by_cases hb : b = a
    · simp [hv, hb, Memory.readByte_below hm ha]
    · simp [hv, hb]
  · by_cases hb : b = a
    · simp [hv, hb, Memory.readByte]
    · simp [hv, hb, Memory.readByte, Ne.symm hb]

theorem Memory.consCell_wf {low a : Nat} {v : Byte} {m : Memory} (hm : Memory.wfFrom (a + 1) m = true)
    (hl : low ≤ a) (ha : a < 4096) : Memory.wfFrom low (Memory.consCell a v m) = true := by
  unfold Memory.consCell
  by_cases hv : v = 0#8
  · simpa [hv] using Memory.wfFrom_mono (by omega) hm
  · simp only [if_neg hv, Memory.wfFrom_cons]
    exact ⟨hl, ha, hv, hm⟩

/-- Writing a byte gives that byte at its address and leaves every other address alone. -/
theorem Memory.readByte_writeByte {a b : Nat} {v : Byte} :
    ∀ {low : Nat} {m : Memory}, Memory.wfFrom low m = true →
      (m.writeByte a v).readByte b = if b = a then v else m.readByte b
  | _, [], _ => Memory.readByte_consCell (m := []) (low := a + 1) rfl (by omega)
  | low, (k, u) :: rest, hm => by
    have hc := Memory.wfFrom_cons.mp hm
    unfold Memory.writeByte
    by_cases h1 : a < k
    · rw [if_pos h1]
      exact Memory.readByte_consCell (low := k) (Memory.wfFrom_cons.mpr ⟨le_rfl, hc.2⟩) h1
    · by_cases h2 : a = k
      · rw [if_neg h1, if_pos h2, Memory.readByte_consCell hc.2.2.2 (by omega)]
        by_cases hb : b = a
        · simp [hb]
        · have hk : ¬ k = b := by omega
          simp [hb, Memory.readByte, hk]
      · rw [if_neg h1, if_neg h2]
        by_cases hb : k = b
        · have : ¬ b = a := by omega
          simp [Memory.readByte, hb, this]
        · simp only [Memory.readByte, if_neg hb]
          exact Memory.readByte_writeByte hc.2.2.2

/-- Writing a byte keeps the canonical form. -/
theorem Memory.writeByte_wfFrom {a : Nat} {v : Byte} (ha : a < 4096) :
    ∀ {low : Nat} {m : Memory}, Memory.wfFrom low m = true → low ≤ a →
      Memory.wfFrom low (m.writeByte a v) = true
  | _, [], _, hl => Memory.consCell_wf (m := []) rfl hl ha
  | low, (k, u) :: rest, hm, hl => by
    have hc := Memory.wfFrom_cons.mp hm
    unfold Memory.writeByte
    by_cases h1 : a < k
    · rw [if_pos h1]
      exact Memory.consCell_wf (Memory.wfFrom_cons.mpr ⟨by omega, hc.2⟩) hl ha
    · by_cases h2 : a = k
      · rw [if_neg h1, if_pos h2]
        exact Memory.consCell_wf (Memory.wfFrom_mono (by omega) hc.2.2.2) hl ha
      · rw [if_neg h1, if_neg h2, Memory.wfFrom_cons]
        exact ⟨hc.1, hc.2.1, hc.2.2.1, Memory.writeByte_wfFrom ha hc.2.2.2 (by omega)⟩

theorem Memory.writeByte_wf {m : Memory} {a : Nat} {v : Byte} (hm : m.wf = true) (ha : a < 4096) :
    (m.writeByte a v).wf = true := Memory.writeByte_wfFrom ha hm (Nat.zero_le _)

/-- The cells of a word lie in memory. -/
theorem cellOf_lt (i : MemIndex) : cellOf i + 3 < 4096 := by
  have := i.isLt
  simp only [cellOf]
  omega

/-- Writing a word keeps the canonical form. -/
theorem Memory.writeWord_wf {m : Memory} (i : MemIndex) (v : Word) (hm : m.wf = true) :
    (m.writeWord i v).wf = true := by
  have hi := cellOf_lt i
  unfold Memory.writeWord
  exact Memory.writeByte_wf (Memory.writeByte_wf (Memory.writeByte_wf (Memory.writeByte_wf hm
    (by omega)) (by omega)) (by omega)) (by omega)

/-- All that writing a word does, cell by cell. -/
theorem Memory.readByte_writeWord {m : Memory} (i : MemIndex) (v : Word) (b : Nat) (hm : m.wf = true) :
    (m.writeWord i v).readByte b =
      if b = cellOf i + 3 then v.extractLsb' 24 8
      else if b = cellOf i + 2 then v.extractLsb' 16 8
      else if b = cellOf i + 1 then v.extractLsb' 8 8
      else if b = cellOf i then v.extractLsb' 0 8
      else m.readByte b := by
  have hi := cellOf_lt i
  have h0 := Memory.writeByte_wf (v := v.extractLsb' 0 8) hm (show cellOf i < 4096 by omega)
  have h1 := Memory.writeByte_wf (v := v.extractLsb' 8 8) h0 (show cellOf i + 1 < 4096 by omega)
  have h2 := Memory.writeByte_wf (v := v.extractLsb' 16 8) h1 (show cellOf i + 2 < 4096 by omega)
  unfold Memory.writeWord
  rw [Memory.readByte_writeByte h2, Memory.readByte_writeByte h1, Memory.readByte_writeByte h0,
    Memory.readByte_writeByte hm]

/-- A word is its four bytes. -/
theorem word_of_bytes (v : Word) :
    v.extractLsb' 24 8 ++ v.extractLsb' 16 8 ++ v.extractLsb' 8 8 ++ v.extractLsb' 0 8 = v := by
  apply BitVec.eq_of_getLsbD_eq
  intro j hj
  simp only [BitVec.getLsbD_append, BitVec.getLsbD_extractLsb']
  by_cases h0 : j < 8
  · simp [h0]
  · by_cases h1 : j < 16
    · have e : j - 8 < 8 := by omega
      have e' : 8 + (j - 8) = j := by omega
      simp [h0, e, e']
    · by_cases h2 : j < 24
      · have e1 : ¬ j - 8 < 8 := by omega
        have e : j - 8 - 8 < 8 := by omega
        have e' : 16 + (j - 8 - 8) = j := by omega
        simp [h0, e1, e, e']
      · have e1 : ¬ j - 8 < 8 := by omega
        have e2 : ¬ j - 8 - 8 < 8 := by omega
        have e : j - 8 - 8 - 8 < 8 := by omega
        have e' : 24 + (j - 8 - 8 - 8) = j := by omega
        simp [h0, e1, e2, e, e']

end Sys2Proof.Machine
end

