-- ==== Sys2Proof/Laws/State.lean ====
section
/-! SUPPORT. What each update of the state does to each field, true by definition. -/

namespace Sys2Proof.Machine

variable (s : State)

/-! ## `setReg` -/

@[simp] theorem State.setReg_x (r : Reg) (v : Word) : (s.setReg r v).x = s.x.set r.val v r.isLt := rfl
@[simp] theorem State.setReg_pc (r : Reg) (v : Word) : (s.setReg r v).pc = s.pc := rfl
@[simp] theorem State.setReg_ir (r : Reg) (v : Word) : (s.setReg r v).ir = s.ir := rfl
@[simp] theorem State.setReg_flags (r : Reg) (v : Word) : (s.setReg r v).flags = s.flags := rfl
@[simp] theorem State.setReg_err (r : Reg) (v : Word) : (s.setReg r v).err = s.err := rfl
@[simp] theorem State.setReg_cycle (r : Reg) (v : Word) : (s.setReg r v).cycle = s.cycle := rfl
@[simp] theorem State.setReg_temp (r : Reg) (v : Word) : (s.setReg r v).temp = s.temp := rfl
@[simp] theorem State.setReg_period (r : Reg) (v : Word) : (s.setReg r v).period = s.period := rfl
@[simp] theorem State.setReg_lastAddr (r : Reg) (v : Word) : (s.setReg r v).lastAddr = s.lastAddr := rfl
@[simp] theorem State.setReg_mem (r : Reg) (v : Word) : (s.setReg r v).mem = s.mem := rfl
@[simp] theorem State.setReg_prog (r : Reg) (v : Word) : (s.setReg r v).prog = s.prog := rfl
@[simp] theorem State.setReg_klog (r : Reg) (v : Word) : (s.setReg r v).klog = s.klog := rfl
@[simp] theorem State.setReg_console (r : Reg) (v : Word) : (s.setReg r v).console = s.console := rfl
@[simp] theorem State.setReg_fsm (r : Reg) (v : Word) : (s.setReg r v).fsm = s.fsm := rfl
@[simp] theorem State.setReg_inputs (r : Reg) (v : Word) : (s.setReg r v).inputs = s.inputs := rfl
@[simp] theorem State.setReg_draws (r : Reg) (v : Word) : (s.setReg r v).draws = s.draws := rfl

/-! ## `setPc` -/

@[simp] theorem State.setPc_x (v : Word) : (s.setPc v).x = s.x := rfl
@[simp] theorem State.setPc_pc (v : Word) : (s.setPc v).pc = v := rfl
@[simp] theorem State.setPc_ir (v : Word) : (s.setPc v).ir = s.ir := rfl
@[simp] theorem State.setPc_flags (v : Word) : (s.setPc v).flags = s.flags := rfl
@[simp] theorem State.setPc_err (v : Word) : (s.setPc v).err = s.err := rfl
@[simp] theorem State.setPc_cycle (v : Word) : (s.setPc v).cycle = s.cycle := rfl
@[simp] theorem State.setPc_temp (v : Word) : (s.setPc v).temp = s.temp := rfl
@[simp] theorem State.setPc_period (v : Word) : (s.setPc v).period = s.period := rfl
@[simp] theorem State.setPc_lastAddr (v : Word) : (s.setPc v).lastAddr = s.lastAddr := rfl
@[simp] theorem State.setPc_mem (v : Word) : (s.setPc v).mem = s.mem := rfl
@[simp] theorem State.setPc_prog (v : Word) : (s.setPc v).prog = s.prog := rfl
@[simp] theorem State.setPc_klog (v : Word) : (s.setPc v).klog = s.klog := rfl
@[simp] theorem State.setPc_console (v : Word) : (s.setPc v).console = s.console := rfl
@[simp] theorem State.setPc_fsm (v : Word) : (s.setPc v).fsm = s.fsm := rfl
@[simp] theorem State.setPc_inputs (v : Word) : (s.setPc v).inputs = s.inputs := rfl
@[simp] theorem State.setPc_draws (v : Word) : (s.setPc v).draws = s.draws := rfl
@[simp] theorem State.setPc_getReg (v : Word) (k : Reg) : (s.setPc v).getReg k = s.getReg k := rfl

/-! ## `advance` -/

@[simp] theorem State.advance_x : (s.advance).x = s.x := rfl
@[simp] theorem State.advance_pc : (s.advance).pc = s.pc + 1#32 := rfl
@[simp] theorem State.advance_ir : (s.advance).ir = s.ir := rfl
@[simp] theorem State.advance_flags : (s.advance).flags = s.flags := rfl
@[simp] theorem State.advance_err : (s.advance).err = s.err := rfl
@[simp] theorem State.advance_cycle : (s.advance).cycle = s.cycle := rfl
@[simp] theorem State.advance_temp : (s.advance).temp = s.temp := rfl
@[simp] theorem State.advance_period : (s.advance).period = s.period := rfl
@[simp] theorem State.advance_lastAddr : (s.advance).lastAddr = s.lastAddr := rfl
@[simp] theorem State.advance_mem : (s.advance).mem = s.mem := rfl
@[simp] theorem State.advance_prog : (s.advance).prog = s.prog := rfl
@[simp] theorem State.advance_klog : (s.advance).klog = s.klog := rfl
@[simp] theorem State.advance_console : (s.advance).console = s.console := rfl
@[simp] theorem State.advance_fsm : (s.advance).fsm = s.fsm := rfl
@[simp] theorem State.advance_inputs : (s.advance).inputs = s.inputs := rfl
@[simp] theorem State.advance_draws : (s.advance).draws = s.draws := rfl
@[simp] theorem State.advance_getReg (k : Reg) : (s.advance).getReg k = s.getReg k := rfl

/-! ## `setEqual` -/

@[simp] theorem State.setEqual_x (b : Bool) : (s.setEqual b).x = s.x := rfl
@[simp] theorem State.setEqual_pc (b : Bool) : (s.setEqual b).pc = s.pc := rfl
@[simp] theorem State.setEqual_ir (b : Bool) : (s.setEqual b).ir = s.ir := rfl
@[simp] theorem State.setEqual_flags (b : Bool) : (s.setEqual b).flags = { s.flags with equal := b } := rfl
@[simp] theorem State.setEqual_err (b : Bool) : (s.setEqual b).err = s.err := rfl
@[simp] theorem State.setEqual_cycle (b : Bool) : (s.setEqual b).cycle = s.cycle := rfl
@[simp] theorem State.setEqual_temp (b : Bool) : (s.setEqual b).temp = s.temp := rfl
@[simp] theorem State.setEqual_period (b : Bool) : (s.setEqual b).period = s.period := rfl
@[simp] theorem State.setEqual_lastAddr (b : Bool) : (s.setEqual b).lastAddr = s.lastAddr := rfl
@[simp] theorem State.setEqual_mem (b : Bool) : (s.setEqual b).mem = s.mem := rfl
@[simp] theorem State.setEqual_prog (b : Bool) : (s.setEqual b).prog = s.prog := rfl
@[simp] theorem State.setEqual_klog (b : Bool) : (s.setEqual b).klog = s.klog := rfl
@[simp] theorem State.setEqual_console (b : Bool) : (s.setEqual b).console = s.console := rfl
@[simp] theorem State.setEqual_fsm (b : Bool) : (s.setEqual b).fsm = s.fsm := rfl
@[simp] theorem State.setEqual_inputs (b : Bool) : (s.setEqual b).inputs = s.inputs := rfl
@[simp] theorem State.setEqual_draws (b : Bool) : (s.setEqual b).draws = s.draws := rfl
@[simp] theorem State.setEqual_getReg (b : Bool) (k : Reg) : (s.setEqual b).getReg k = s.getReg k := rfl

/-! ## `emit` -/

@[simp] theorem State.emit_x (e : LogEvent) : (s.emit e).x = s.x := rfl
@[simp] theorem State.emit_pc (e : LogEvent) : (s.emit e).pc = s.pc := rfl
@[simp] theorem State.emit_ir (e : LogEvent) : (s.emit e).ir = s.ir := rfl
@[simp] theorem State.emit_flags (e : LogEvent) : (s.emit e).flags = s.flags := rfl
@[simp] theorem State.emit_err (e : LogEvent) : (s.emit e).err = s.err := rfl
@[simp] theorem State.emit_cycle (e : LogEvent) : (s.emit e).cycle = s.cycle := rfl
@[simp] theorem State.emit_temp (e : LogEvent) : (s.emit e).temp = s.temp := rfl
@[simp] theorem State.emit_period (e : LogEvent) : (s.emit e).period = s.period := rfl
@[simp] theorem State.emit_lastAddr (e : LogEvent) : (s.emit e).lastAddr = s.lastAddr := rfl
@[simp] theorem State.emit_mem (e : LogEvent) : (s.emit e).mem = s.mem := rfl
@[simp] theorem State.emit_prog (e : LogEvent) : (s.emit e).prog = s.prog := rfl
@[simp] theorem State.emit_klog (e : LogEvent) : (s.emit e).klog = lastEntries Config.logCap (s.klog ++ [e]) := rfl
@[simp] theorem State.emit_console (e : LogEvent) : (s.emit e).console = s.console := rfl
@[simp] theorem State.emit_fsm (e : LogEvent) : (s.emit e).fsm = s.fsm := rfl
@[simp] theorem State.emit_inputs (e : LogEvent) : (s.emit e).inputs = s.inputs := rfl
@[simp] theorem State.emit_draws (e : LogEvent) : (s.emit e).draws = s.draws := rfl
@[simp] theorem State.emit_getReg (e : LogEvent) (k : Reg) : (s.emit e).getReg k = s.getReg k := rfl

/-! ## `printLine` -/

@[simp] theorem State.printLine_x (l : ConsoleLine) : (s.printLine l).x = s.x := rfl
@[simp] theorem State.printLine_pc (l : ConsoleLine) : (s.printLine l).pc = s.pc := rfl
@[simp] theorem State.printLine_ir (l : ConsoleLine) : (s.printLine l).ir = s.ir := rfl
@[simp] theorem State.printLine_flags (l : ConsoleLine) : (s.printLine l).flags = s.flags := rfl
@[simp] theorem State.printLine_err (l : ConsoleLine) : (s.printLine l).err = s.err := rfl
@[simp] theorem State.printLine_cycle (l : ConsoleLine) : (s.printLine l).cycle = s.cycle := rfl
@[simp] theorem State.printLine_temp (l : ConsoleLine) : (s.printLine l).temp = s.temp := rfl
@[simp] theorem State.printLine_period (l : ConsoleLine) : (s.printLine l).period = s.period := rfl
@[simp] theorem State.printLine_lastAddr (l : ConsoleLine) : (s.printLine l).lastAddr = s.lastAddr := rfl
@[simp] theorem State.printLine_mem (l : ConsoleLine) : (s.printLine l).mem = s.mem := rfl
@[simp] theorem State.printLine_prog (l : ConsoleLine) : (s.printLine l).prog = s.prog := rfl
@[simp] theorem State.printLine_klog (l : ConsoleLine) : (s.printLine l).klog = s.klog := rfl
@[simp] theorem State.printLine_console (l : ConsoleLine) : (s.printLine l).console = s.console ++ [l] := rfl
@[simp] theorem State.printLine_fsm (l : ConsoleLine) : (s.printLine l).fsm = s.fsm := rfl
@[simp] theorem State.printLine_inputs (l : ConsoleLine) : (s.printLine l).inputs = s.inputs := rfl
@[simp] theorem State.printLine_draws (l : ConsoleLine) : (s.printLine l).draws = s.draws := rfl
@[simp] theorem State.printLine_getReg (l : ConsoleLine) (k : Reg) : (s.printLine l).getReg k = s.getReg k := rfl

/-! ## `setWord` -/

@[simp] theorem State.setWord_x (i : MemIndex) (v : Word) : (s.setWord i v).x = s.x := rfl
@[simp] theorem State.setWord_pc (i : MemIndex) (v : Word) : (s.setWord i v).pc = s.pc := rfl
@[simp] theorem State.setWord_ir (i : MemIndex) (v : Word) : (s.setWord i v).ir = s.ir := rfl
@[simp] theorem State.setWord_flags (i : MemIndex) (v : Word) : (s.setWord i v).flags = s.flags := rfl
@[simp] theorem State.setWord_err (i : MemIndex) (v : Word) : (s.setWord i v).err = s.err := rfl
@[simp] theorem State.setWord_cycle (i : MemIndex) (v : Word) : (s.setWord i v).cycle = s.cycle := rfl
@[simp] theorem State.setWord_temp (i : MemIndex) (v : Word) : (s.setWord i v).temp = s.temp := rfl
@[simp] theorem State.setWord_period (i : MemIndex) (v : Word) : (s.setWord i v).period = s.period := rfl
@[simp] theorem State.setWord_lastAddr (i : MemIndex) (v : Word) : (s.setWord i v).lastAddr = s.lastAddr := rfl
@[simp] theorem State.setWord_mem (i : MemIndex) (v : Word) : (s.setWord i v).mem = s.mem.writeWord i v := rfl
@[simp] theorem State.setWord_prog (i : MemIndex) (v : Word) : (s.setWord i v).prog = s.prog := rfl
@[simp] theorem State.setWord_klog (i : MemIndex) (v : Word) : (s.setWord i v).klog = s.klog := rfl
@[simp] theorem State.setWord_console (i : MemIndex) (v : Word) : (s.setWord i v).console = s.console := rfl
@[simp] theorem State.setWord_fsm (i : MemIndex) (v : Word) : (s.setWord i v).fsm = s.fsm := rfl
@[simp] theorem State.setWord_inputs (i : MemIndex) (v : Word) : (s.setWord i v).inputs = s.inputs := rfl
@[simp] theorem State.setWord_draws (i : MemIndex) (v : Word) : (s.setWord i v).draws = s.draws := rfl
@[simp] theorem State.setWord_getReg (i : MemIndex) (v : Word) (k : Reg) : (s.setWord i v).getReg k = s.getReg k := rfl

/-! ## `touch` -/

@[simp] theorem State.touch_x (i : MemIndex) : (s.touch i).x = s.x := rfl
@[simp] theorem State.touch_pc (i : MemIndex) : (s.touch i).pc = s.pc := rfl
@[simp] theorem State.touch_ir (i : MemIndex) : (s.touch i).ir = s.ir := rfl
@[simp] theorem State.touch_flags (i : MemIndex) : (s.touch i).flags = s.flags := rfl
@[simp] theorem State.touch_err (i : MemIndex) : (s.touch i).err = s.err := rfl
@[simp] theorem State.touch_cycle (i : MemIndex) : (s.touch i).cycle = s.cycle := rfl
@[simp] theorem State.touch_temp (i : MemIndex) : (s.touch i).temp = s.temp := rfl
@[simp] theorem State.touch_period (i : MemIndex) : (s.touch i).period = s.period := rfl
@[simp] theorem State.touch_lastAddr (i : MemIndex) : (s.touch i).lastAddr = some i := rfl
@[simp] theorem State.touch_mem (i : MemIndex) : (s.touch i).mem = s.mem := rfl
@[simp] theorem State.touch_prog (i : MemIndex) : (s.touch i).prog = s.prog := rfl
@[simp] theorem State.touch_klog (i : MemIndex) : (s.touch i).klog = s.klog := rfl
@[simp] theorem State.touch_console (i : MemIndex) : (s.touch i).console = s.console := rfl
@[simp] theorem State.touch_fsm (i : MemIndex) : (s.touch i).fsm = s.fsm := rfl
@[simp] theorem State.touch_inputs (i : MemIndex) : (s.touch i).inputs = s.inputs := rfl
@[simp] theorem State.touch_draws (i : MemIndex) : (s.touch i).draws = s.draws := rfl
@[simp] theorem State.touch_getReg (i : MemIndex) (k : Reg) : (s.touch i).getReg k = s.getReg k := rfl

/-! ## `raiseIllegal` -/

@[simp] theorem State.raiseIllegal_x : (s.raiseIllegal).x = s.x := rfl
@[simp] theorem State.raiseIllegal_pc : (s.raiseIllegal).pc = s.pc := rfl
@[simp] theorem State.raiseIllegal_ir : (s.raiseIllegal).ir = s.ir := rfl
@[simp] theorem State.raiseIllegal_flags : (s.raiseIllegal).flags = s.flags := rfl
@[simp] theorem State.raiseIllegal_err : (s.raiseIllegal).err = true := rfl
@[simp] theorem State.raiseIllegal_cycle : (s.raiseIllegal).cycle = s.cycle := rfl
@[simp] theorem State.raiseIllegal_temp : (s.raiseIllegal).temp = s.temp := rfl
@[simp] theorem State.raiseIllegal_period : (s.raiseIllegal).period = s.period := rfl
@[simp] theorem State.raiseIllegal_lastAddr : (s.raiseIllegal).lastAddr = s.lastAddr := rfl
@[simp] theorem State.raiseIllegal_mem : (s.raiseIllegal).mem = s.mem := rfl
@[simp] theorem State.raiseIllegal_prog : (s.raiseIllegal).prog = s.prog := rfl
@[simp] theorem State.raiseIllegal_klog : (s.raiseIllegal).klog = lastEntries Config.logCap (s.klog ++ [.illegalWord s.pc s.ir]) := rfl
@[simp] theorem State.raiseIllegal_console : (s.raiseIllegal).console = s.console := rfl
@[simp] theorem State.raiseIllegal_fsm : (s.raiseIllegal).fsm = s.fsm := rfl
@[simp] theorem State.raiseIllegal_inputs : (s.raiseIllegal).inputs = s.inputs := rfl
@[simp] theorem State.raiseIllegal_draws : (s.raiseIllegal).draws = s.draws := rfl
@[simp] theorem State.raiseIllegal_getReg (k : Reg) : (s.raiseIllegal).getReg k = s.getReg k := rfl

/-! ## `fetch` -/

@[simp] theorem State.fetch_x (w : InstrWord) : (s.fetch w).x = s.x := rfl
@[simp] theorem State.fetch_pc (w : InstrWord) : (s.fetch w).pc = s.pc := rfl
@[simp] theorem State.fetch_ir (w : InstrWord) : (s.fetch w).ir = w := rfl
@[simp] theorem State.fetch_flags (w : InstrWord) : (s.fetch w).flags = s.flags := rfl
@[simp] theorem State.fetch_err (w : InstrWord) : (s.fetch w).err = s.err := rfl
@[simp] theorem State.fetch_cycle (w : InstrWord) : (s.fetch w).cycle = s.cycle := rfl
@[simp] theorem State.fetch_temp (w : InstrWord) : (s.fetch w).temp = s.temp := rfl
@[simp] theorem State.fetch_period (w : InstrWord) : (s.fetch w).period = s.period := rfl
@[simp] theorem State.fetch_lastAddr (w : InstrWord) : (s.fetch w).lastAddr = s.lastAddr := rfl
@[simp] theorem State.fetch_mem (w : InstrWord) : (s.fetch w).mem = s.mem := rfl
@[simp] theorem State.fetch_prog (w : InstrWord) : (s.fetch w).prog = s.prog := rfl
@[simp] theorem State.fetch_klog (w : InstrWord) : (s.fetch w).klog = lastEntries Config.logCap (s.klog ++ [.exec s.pc w]) := rfl
@[simp] theorem State.fetch_console (w : InstrWord) : (s.fetch w).console = s.console := rfl
@[simp] theorem State.fetch_fsm (w : InstrWord) : (s.fetch w).fsm = s.fsm := rfl
@[simp] theorem State.fetch_inputs (w : InstrWord) : (s.fetch w).inputs = s.inputs := rfl
@[simp] theorem State.fetch_draws (w : InstrWord) : (s.fetch w).draws = s.draws := rfl
@[simp] theorem State.fetch_getReg (w : InstrWord) (k : Reg) : (s.fetch w).getReg k = s.getReg k := rfl

/-! ## `softHalt` -/

@[simp] theorem State.softHalt_x : (s.softHalt).x = s.x := rfl
@[simp] theorem State.softHalt_pc : (s.softHalt).pc = s.pc := rfl
@[simp] theorem State.softHalt_ir : (s.softHalt).ir = s.ir := rfl
@[simp] theorem State.softHalt_flags : (s.softHalt).flags = s.flags := rfl
@[simp] theorem State.softHalt_err : (s.softHalt).err = s.err := rfl
@[simp] theorem State.softHalt_cycle : (s.softHalt).cycle = s.cycle := rfl
@[simp] theorem State.softHalt_temp : (s.softHalt).temp = s.temp := rfl
@[simp] theorem State.softHalt_period : (s.softHalt).period = s.period := rfl
@[simp] theorem State.softHalt_lastAddr : (s.softHalt).lastAddr = s.lastAddr := rfl
@[simp] theorem State.softHalt_mem : (s.softHalt).mem = s.mem := rfl
@[simp] theorem State.softHalt_prog : (s.softHalt).prog = s.prog := rfl
@[simp] theorem State.softHalt_klog : (s.softHalt).klog = lastEntries Config.logCap (s.klog ++ [.softHalt s.pc]) := rfl
@[simp] theorem State.softHalt_console : (s.softHalt).console = s.console := rfl
@[simp] theorem State.softHalt_fsm : (s.softHalt).fsm = s.fsm := rfl
@[simp] theorem State.softHalt_inputs : (s.softHalt).inputs = s.inputs := rfl
@[simp] theorem State.softHalt_draws : (s.softHalt).draws = s.draws := rfl
@[simp] theorem State.softHalt_getReg (k : Reg) : (s.softHalt).getReg k = s.getReg k := rfl

/-! ## `count` -/

@[simp] theorem State.count_x : (s.count).x = s.x := rfl
@[simp] theorem State.count_pc : (s.count).pc = s.pc := rfl
@[simp] theorem State.count_ir : (s.count).ir = s.ir := rfl
@[simp] theorem State.count_flags : (s.count).flags = s.flags := rfl
@[simp] theorem State.count_err : (s.count).err = s.err := rfl
@[simp] theorem State.count_cycle : (s.count).cycle = s.cycle + 1#64 := rfl
@[simp] theorem State.count_temp : (s.count).temp = Config.drawTemp s.draws := rfl
@[simp] theorem State.count_period : (s.count).period = s.period := rfl
@[simp] theorem State.count_lastAddr : (s.count).lastAddr = s.lastAddr := rfl
@[simp] theorem State.count_mem : (s.count).mem = s.mem := rfl
@[simp] theorem State.count_prog : (s.count).prog = s.prog := rfl
@[simp] theorem State.count_klog : (s.count).klog = s.klog := rfl
@[simp] theorem State.count_console : (s.count).console = s.console := rfl
@[simp] theorem State.count_fsm : (s.count).fsm = s.fsm := rfl
@[simp] theorem State.count_inputs : (s.count).inputs = s.inputs := rfl
@[simp] theorem State.count_draws : (s.count).draws = s.draws + 1 := rfl
@[simp] theorem State.count_getReg (k : Reg) : (s.count).getReg k = s.getReg k := rfl

/-! ## `halt` -/

@[simp] theorem State.halt_x : (s.halt).x = s.x := rfl
@[simp] theorem State.halt_pc : (s.halt).pc = s.pc := rfl
@[simp] theorem State.halt_ir : (s.halt).ir = s.ir := rfl
@[simp] theorem State.halt_flags : (s.halt).flags = s.flags := rfl
@[simp] theorem State.halt_err : (s.halt).err = s.err := rfl
@[simp] theorem State.halt_cycle : (s.halt).cycle = s.cycle := rfl
@[simp] theorem State.halt_temp : (s.halt).temp = s.temp := rfl
@[simp] theorem State.halt_period : (s.halt).period = s.period := rfl
@[simp] theorem State.halt_lastAddr : (s.halt).lastAddr = s.lastAddr := rfl
@[simp] theorem State.halt_mem : (s.halt).mem = s.mem := rfl
@[simp] theorem State.halt_prog : (s.halt).prog = none := rfl
@[simp] theorem State.halt_klog : (s.halt).klog = s.klog := rfl
@[simp] theorem State.halt_console : (s.halt).console = s.console := rfl
@[simp] theorem State.halt_fsm : (s.halt).fsm = .halted := rfl
@[simp] theorem State.halt_inputs : (s.halt).inputs = s.inputs := rfl
@[simp] theorem State.halt_draws : (s.halt).draws = s.draws := rfl
@[simp] theorem State.halt_getReg (k : Reg) : (s.halt).getReg k = s.getReg k := rfl

/-! ## `clearMachine` -/

@[simp] theorem State.clearMachine_x : (s.clearMachine).x = Vector.replicate 8 0#32 := rfl
@[simp] theorem State.clearMachine_pc : (s.clearMachine).pc = 0#32 := rfl
@[simp] theorem State.clearMachine_ir : (s.clearMachine).ir = nopWord := rfl
@[simp] theorem State.clearMachine_flags : (s.clearMachine).flags = { zero := false, equal := false } := rfl
@[simp] theorem State.clearMachine_err : (s.clearMachine).err = false := rfl
@[simp] theorem State.clearMachine_cycle : (s.clearMachine).cycle = s.cycle := rfl
@[simp] theorem State.clearMachine_temp : (s.clearMachine).temp = s.temp := rfl
@[simp] theorem State.clearMachine_period : (s.clearMachine).period = s.period := rfl
@[simp] theorem State.clearMachine_lastAddr : (s.clearMachine).lastAddr = none := rfl
@[simp] theorem State.clearMachine_mem : (s.clearMachine).mem = s.mem := rfl
@[simp] theorem State.clearMachine_prog : (s.clearMachine).prog = s.prog := rfl
@[simp] theorem State.clearMachine_klog : (s.clearMachine).klog = s.klog := rfl
@[simp] theorem State.clearMachine_console : (s.clearMachine).console = s.console := rfl
@[simp] theorem State.clearMachine_fsm : (s.clearMachine).fsm = s.fsm := rfl
@[simp] theorem State.clearMachine_inputs : (s.clearMachine).inputs = s.inputs := rfl
@[simp] theorem State.clearMachine_draws : (s.clearMachine).draws = s.draws := rfl

/-! ## `formatted` -/

@[simp] theorem State.formatted_x : (s.formatted).x = Vector.replicate 8 0#32 := rfl
@[simp] theorem State.formatted_pc : (s.formatted).pc = 0#32 := rfl
@[simp] theorem State.formatted_ir : (s.formatted).ir = nopWord := rfl
@[simp] theorem State.formatted_flags : (s.formatted).flags = { zero := false, equal := false } := rfl
@[simp] theorem State.formatted_err : (s.formatted).err = false := rfl
@[simp] theorem State.formatted_cycle : (s.formatted).cycle = s.cycle := rfl
@[simp] theorem State.formatted_temp : (s.formatted).temp = s.temp := rfl
@[simp] theorem State.formatted_period : (s.formatted).period = s.period := rfl
@[simp] theorem State.formatted_lastAddr : (s.formatted).lastAddr = none := rfl
@[simp] theorem State.formatted_mem : (s.formatted).mem = [] := rfl
@[simp] theorem State.formatted_prog : (s.formatted).prog = none := rfl
@[simp] theorem State.formatted_klog : (s.formatted).klog = s.klog := rfl
@[simp] theorem State.formatted_console : (s.formatted).console = s.console := rfl
@[simp] theorem State.formatted_fsm : (s.formatted).fsm = .idle := rfl
@[simp] theorem State.formatted_inputs : (s.formatted).inputs = s.inputs := rfl
@[simp] theorem State.formatted_draws : (s.formatted).draws = s.draws := rfl

/-! ## `takeInput` -/

@[simp] theorem State.takeInput_x : (s.takeInput).x = s.x := rfl
@[simp] theorem State.takeInput_pc : (s.takeInput).pc = s.pc := rfl
@[simp] theorem State.takeInput_ir : (s.takeInput).ir = s.ir := rfl
@[simp] theorem State.takeInput_flags : (s.takeInput).flags = s.flags := rfl
@[simp] theorem State.takeInput_err : (s.takeInput).err = s.err := rfl
@[simp] theorem State.takeInput_cycle : (s.takeInput).cycle = s.cycle := rfl
@[simp] theorem State.takeInput_temp : (s.takeInput).temp = s.temp := rfl
@[simp] theorem State.takeInput_period : (s.takeInput).period = s.period := rfl
@[simp] theorem State.takeInput_lastAddr : (s.takeInput).lastAddr = s.lastAddr := rfl
@[simp] theorem State.takeInput_mem : (s.takeInput).mem = s.mem := rfl
@[simp] theorem State.takeInput_prog : (s.takeInput).prog = s.prog := rfl
@[simp] theorem State.takeInput_klog : (s.takeInput).klog = s.klog := rfl
@[simp] theorem State.takeInput_console : (s.takeInput).console = s.console := rfl
@[simp] theorem State.takeInput_fsm : (s.takeInput).fsm = s.fsm := rfl
@[simp] theorem State.takeInput_inputs : (s.takeInput).inputs = s.inputs.tail := rfl
@[simp] theorem State.takeInput_draws : (s.takeInput).draws = s.draws := rfl
@[simp] theorem State.takeInput_getReg (k : Reg) : (s.takeInput).getReg k = s.getReg k := rfl

/-! ## `install` -/

@[simp] theorem State.install_x (program : List InstrWord) : (s.install program).x = Vector.replicate 8 0#32 := rfl
@[simp] theorem State.install_pc (program : List InstrWord) : (s.install program).pc = 0#32 := rfl
@[simp] theorem State.install_ir (program : List InstrWord) : (s.install program).ir = nopWord := rfl
@[simp] theorem State.install_flags (program : List InstrWord) : (s.install program).flags = { zero := false, equal := false } := rfl
@[simp] theorem State.install_err (program : List InstrWord) : (s.install program).err = false := rfl
@[simp] theorem State.install_cycle (program : List InstrWord) : (s.install program).cycle = s.cycle := rfl
@[simp] theorem State.install_temp (program : List InstrWord) : (s.install program).temp = s.temp := rfl
@[simp] theorem State.install_period (program : List InstrWord) : (s.install program).period = s.period := rfl
@[simp] theorem State.install_lastAddr (program : List InstrWord) : (s.install program).lastAddr = none := rfl
@[simp] theorem State.install_mem (program : List InstrWord) : (s.install program).mem = s.mem := rfl
@[simp] theorem State.install_prog (program : List InstrWord) : (s.install program).prog = some program := rfl
@[simp] theorem State.install_klog (program : List InstrWord) : (s.install program).klog = s.klog := rfl
@[simp] theorem State.install_console (program : List InstrWord) : (s.install program).console = s.console := rfl
@[simp] theorem State.install_fsm (program : List InstrWord) : (s.install program).fsm = s.fsm := rfl
@[simp] theorem State.install_inputs (program : List InstrWord) : (s.install program).inputs = s.inputs := rfl
@[simp] theorem State.install_draws (program : List InstrWord) : (s.install program).draws = s.draws := rfl

/-! ## `clearLast` -/

@[simp] theorem State.clearLast_x : (s.clearLast).x = s.x := rfl
@[simp] theorem State.clearLast_pc : (s.clearLast).pc = s.pc := rfl
@[simp] theorem State.clearLast_ir : (s.clearLast).ir = s.ir := rfl
@[simp] theorem State.clearLast_flags : (s.clearLast).flags = s.flags := rfl
@[simp] theorem State.clearLast_err : (s.clearLast).err = s.err := rfl
@[simp] theorem State.clearLast_cycle : (s.clearLast).cycle = s.cycle := rfl
@[simp] theorem State.clearLast_temp : (s.clearLast).temp = s.temp := rfl
@[simp] theorem State.clearLast_period : (s.clearLast).period = s.period := rfl
@[simp] theorem State.clearLast_lastAddr : (s.clearLast).lastAddr = none := rfl
@[simp] theorem State.clearLast_mem : (s.clearLast).mem = s.mem := rfl
@[simp] theorem State.clearLast_prog : (s.clearLast).prog = s.prog := rfl
@[simp] theorem State.clearLast_klog : (s.clearLast).klog = s.klog := rfl
@[simp] theorem State.clearLast_console : (s.clearLast).console = s.console := rfl
@[simp] theorem State.clearLast_fsm : (s.clearLast).fsm = s.fsm := rfl
@[simp] theorem State.clearLast_inputs : (s.clearLast).inputs = s.inputs := rfl
@[simp] theorem State.clearLast_draws : (s.clearLast).draws = s.draws := rfl
@[simp] theorem State.clearLast_getReg (k : Reg) : (s.clearLast).getReg k = s.getReg k := rfl

/-! ## `enterRunning` -/

@[simp] theorem State.enterRunning_x : (s.enterRunning).x = s.x := rfl
@[simp] theorem State.enterRunning_pc : (s.enterRunning).pc = s.pc := rfl
@[simp] theorem State.enterRunning_ir : (s.enterRunning).ir = s.ir := rfl
@[simp] theorem State.enterRunning_flags : (s.enterRunning).flags = s.flags := rfl
@[simp] theorem State.enterRunning_err : (s.enterRunning).err = s.err := rfl
@[simp] theorem State.enterRunning_cycle : (s.enterRunning).cycle = s.cycle := rfl
@[simp] theorem State.enterRunning_temp : (s.enterRunning).temp = s.temp := rfl
@[simp] theorem State.enterRunning_period : (s.enterRunning).period = s.period := rfl
@[simp] theorem State.enterRunning_lastAddr : (s.enterRunning).lastAddr = s.lastAddr := rfl
@[simp] theorem State.enterRunning_mem : (s.enterRunning).mem = s.mem := rfl
@[simp] theorem State.enterRunning_prog : (s.enterRunning).prog = s.prog := rfl
@[simp] theorem State.enterRunning_klog : (s.enterRunning).klog = s.klog := rfl
@[simp] theorem State.enterRunning_console : (s.enterRunning).console = s.console := rfl
@[simp] theorem State.enterRunning_fsm : (s.enterRunning).fsm = .running := rfl
@[simp] theorem State.enterRunning_inputs : (s.enterRunning).inputs = s.inputs := rfl
@[simp] theorem State.enterRunning_draws : (s.enterRunning).draws = s.draws := rfl
@[simp] theorem State.enterRunning_getReg (k : Reg) : (s.enterRunning).getReg k = s.getReg k := rfl

/-! ## A register of the machine reset by LOAD, FORMAT or POWER_ON -/

@[simp] theorem State.clearMachine_getReg (k : Reg) : s.clearMachine.getReg k = 0#32 := by
  simp [State.getReg]

@[simp] theorem State.install_getReg (program : List InstrWord) (k : Reg) :
    (s.install program).getReg k = 0#32 := by
  simp [State.getReg]

@[simp] theorem State.formatted_getReg (k : Reg) : s.formatted.getReg k = 0#32 := by
  simp [State.getReg]

@[simp] theorem State.poweredOn_getReg (draws : Nat) (inputs : List Input) (k : Reg) :
    (State.poweredOn draws inputs).getReg k = 0#32 := by
  simp [State.getReg, State.poweredOn]

end Sys2Proof.Machine
end

