-- ==== Sys2Proof/Laws/Ops.lean ====
section
/-! SUPPORT. One lemma per shared operation that says all it can do. -/

namespace Sys2Proof.Machine

/-! ## Registers -/

/-- A register write is seen by its register alone. -/
theorem State.getReg_setReg (s : State) (r k : Reg) (v : Word) :
    (s.setReg r v).getReg k = if k = r then v else s.getReg k := by
  unfold State.getReg State.setReg
  simp only [Vector.get_eq_getElem]
  by_cases h : k = r
  · subst h
    simp
  · have : ¬ r.val = k.val := fun e => h (Fin.ext e.symm)
    simp [h, this]

@[simp] theorem State.getReg_setReg_same (s : State) (r : Reg) (v : Word) : (s.setReg r v).getReg r = v := by
  simp [State.getReg_setReg]

theorem State.getReg_setReg_other (s : State) {r k : Reg} (v : Word) (h : k ≠ r) :
    (s.setReg r v).getReg k = s.getReg k := by
  simp [State.getReg_setReg, h]

/-! ## The kernel log -/

/-- Trimming keeps at most `n` entries. -/
theorem lastEntries_length_le {α : Type} (n : Nat) (l : List α) : (lastEntries n l).length ≤ n := by
  simp only [lastEntries, List.length_reverse, List.length_take]
  omega

/-- A list that fits is not trimmed. -/
theorem lastEntries_of_le {α : Type} {n : Nat} {l : List α} (h : l.length ≤ n) : lastEntries n l = l := by
  rw [lastEntries, List.take_of_length_le (by simpa using h), List.reverse_reverse]

/-- Trimming before an append changes nothing. -/
theorem lastEntries_append {α : Type} (n : Nat) (l m : List α) :
    lastEntries n (lastEntries n l ++ m) = lastEntries n (l ++ m) := by
  simp only [lastEntries, List.reverse_append, List.reverse_reverse, List.take_append,
    List.length_reverse, List.take_take]
  congr 3
  omega

/-! ## The memory port -/

/-- All that a read does: a word and `last_addr`, or a fault event. -/
theorem memRead_cases (a : Word) (s : State) :
    (inRange a = true ∧ memRead a s = (some (s.mem.readWord (memIndex a)), s.touch (memIndex a))) ∨
      (inRange a = false ∧ memRead a s = (none, s.emit (.memFault .loadFault a))) := by
  unfold memRead
  cases h : inRange a <;> simp

/-- All that a STORE's write does: `mem` and `last_addr`, or a fault event. -/
theorem memWrite_cases (a v : Word) (s : State) :
    (inRange a = true ∧ memWrite a v s = (true, (s.setWord (memIndex a) v).touch (memIndex a))) ∨
      (inRange a = false ∧ memWrite a v s = (false, s.emit (.memFault .storeFault a))) := by
  unfold memWrite
  cases h : inRange a <;> simp

/-- All that a seed's write does: `mem`, or a fault event. -/
theorem seedWrite_cases (s : State) (seed : Word × Word) :
    (inRange seed.1 = true ∧ seedWrite s seed = s.setWord (memIndex seed.1) seed.2) ∨
      (inRange seed.1 = false ∧ seedWrite s seed = s.emit (.memFault .storeFault seed.1)) := by
  unfold seedWrite
  cases h : inRange seed.1 <;> simp

/-- All that the port does with a request: nothing, a read, or a STORE's write. -/
theorem port_cases (q : PortRequest) (s : State) :
    (q.kind = .none ∧ port q s = ({ ok := inRange q.addr, rdata := none }, s)) ∨
      (q.kind = .read ∧
        port q s = ({ ok := inRange q.addr, rdata := (memRead q.addr s).1 }, (memRead q.addr s).2)) ∨
      (q.kind = .write ∧
        port q s = ({ ok := inRange q.addr, rdata := none }, (memWrite q.addr q.wdata s).2)) := by
  unfold port
  cases q.kind <;> simp

/-- The response says whether the address is in range (R67). -/
@[simp] theorem port_ok (q : PortRequest) (s : State) : (port q s).1.ok = inRange q.addr := by
  rcases port_cases q s with ⟨_, e⟩ | ⟨_, e⟩ | ⟨_, e⟩ <;> rw [e]

@[simp] theorem port_idleRequest (s t : State) : (port s.idleRequest t).2 = t := rfl

@[simp] theorem port_loadRequest (src : MsOperand) (s : State) :
    port (loadRequest src s) s =
      ({ ok := inRange (s.operand src), rdata := (memRead (s.operand src) s).1 }, (memRead (s.operand src) s).2) :=
  rfl

@[simp] theorem port_storeRequest (rs : Reg) (addr : Word) (s : State) :
    port (storeRequest rs addr s) s =
      ({ ok := inRange addr, rdata := none }, (memWrite addr (s.getReg rs) s).2) := rfl

/-- LOAD in terms of the read primitive (R164). -/
theorem execLoad_eq (rd : Reg) (src : MsOperand) (s : State) :
    execLoad rd src s =
      .next ((memRead (s.operand src) s).2.writeLoaded rd (memRead (s.operand src) s).1).advance := rfl

/-- STORE in terms of the write primitive (R167). -/
theorem execStore_eq (rs : Reg) (addr : Word) (s : State) :
    execStore rs addr s = .next (memWrite addr (s.getReg rs) s).2.advance := rfl

/-- An instruction reaches memory and `last_addr` by its one port request alone (R66, R67). -/
theorem exec_port (i : Instr) (s t : State) (h : exec i s = .next t) :
    t.mem = (port (portRequest i s) s).2.mem ∧ t.lastAddr = (port (portRequest i s) s).2.lastAddr := by
  cases i <;> cases h
  case load rd src =>
    simp only [portRequest, port_loadRequest]
    cases (memRead (s.operand src) s).1 <;> exact ⟨rfl, rfl⟩
  case jeq target => split <;> exact ⟨rfl, rfl⟩
  all_goals exact ⟨rfl, rfl⟩

/-- Every operation on memory keeps its canonical form: STORE's write. -/
theorem memWrite_wf (a v : Word) (s : State) (h : s.mem.wf = true) : (memWrite a v s).2.mem.wf = true := by
  rcases memWrite_cases a v s with ⟨_, e⟩ | ⟨_, e⟩
  · simpa [e] using Memory.writeWord_wf _ _ h
  · simpa [e] using h

/-- Every operation on memory keeps its canonical form: the read. -/
theorem memRead_wf (a : Word) (s : State) (h : s.mem.wf = true) : (memRead a s).2.mem.wf = true := by
  rcases memRead_cases a s with ⟨_, e⟩ | ⟨_, e⟩ <;> simpa [e] using h

/-- Every operation on memory keeps its canonical form: a seed's write. -/
theorem seedWrite_wf (s : State) (seed : Word × Word) (h : s.mem.wf = true) :
    (seedWrite s seed).mem.wf = true := by
  rcases seedWrite_cases s seed with ⟨_, e⟩ | ⟨_, e⟩
  · simpa [e] using Memory.writeWord_wf _ _ h
  · simpa [e] using h

/-- Every operation on memory keeps its canonical form: the seeds of a LOAD. -/
theorem seeds_wf : ∀ (seeds : List (Word × Word)) (s : State), s.mem.wf = true →
    (seeds.foldl seedWrite s).mem.wf = true
  | [], _, h => h
  | seed :: rest, s, h => seeds_wf rest (seedWrite s seed) (seedWrite_wf s seed h)

/-- The seeds of a LOAD change memory and the log alone. -/
theorem seeds_frame : ∀ (seeds : List (Word × Word)) (s : State),
    seeds.foldl seedWrite s =
      { s with mem := (seeds.foldl seedWrite s).mem, klog := (seeds.foldl seedWrite s).klog }
  | [], _ => rfl
  | seed :: rest, s => by
    rw [List.foldl_cons, seeds_frame rest]
    rcases seedWrite_cases s seed with ⟨_, e⟩ | ⟨_, e⟩ <;> rw [e] <;> rfl

/-- HOST events change the log alone. -/
theorem hostEvents_frame : ∀ (texts : List String) (s : State),
    texts.foldl (fun t l => t.emit (.host l)) s =
      { s with klog := (texts.foldl (fun t l => t.emit (.host l)) s).klog }
  | [], _ => rfl
  | l :: rest, s => by
    rw [List.foldl_cons, hostEvents_frame rest]
    rfl

/-- Banner lines are appended to the console, and nothing else changes. -/
theorem bannerLines_frame : ∀ (texts : List String) (s : State),
    texts.foldl (fun t l => t.printLine (.banner l)) s =
      { s with console := s.console ++ texts.map .banner }
  | [], s => by simp
  | l :: rest, s => by
    rw [List.foldl_cons, bannerLines_frame rest]
    simp [State.printLine]

/-- The loader's lines change the log and the console alone. -/
theorem loaderLines_frame (s : State) (remarks banner : List String) :
    s.loaderLines remarks banner =
      { s with
        klog := (remarks.foldl (fun t l => t.emit (.host l)) s).klog
        console := s.console ++ banner.map .banner } := by
  unfold State.loaderLines
  rw [bannerLines_frame, hostEvents_frame remarks s]

/-- Every operation on memory keeps its canonical form: a whole LOAD. -/
theorem loadProgram_wf (s : State) (program : List InstrWord) (seeds : List (Word × Word))
    (remarks banner : List String) (h : s.mem.wf = true) :
    (s.loadProgram program seeds remarks banner).mem.wf = true := by
  unfold State.loadProgram
  rw [loaderLines_frame]
  exact seeds_wf seeds (s.install program) h

/-- Memory with nothing listed reads 0 everywhere (R47). -/
theorem Memory.readWord_nil (i : MemIndex) : Memory.readWord [] i = 0#32 := by
  simp [Memory.readWord, Memory.readByte]

/-- Every operation on memory keeps its canonical form: a FORMAT. -/
theorem formatted_wf (s : State) : s.formatted.mem.wf = true := rfl

/-- Reset memory has the canonical form. -/
theorem reset_wf : State.reset.mem.wf = true := rfl

end Sys2Proof.Machine
end

