-- ==== Sys2Proof/Laws/Driver.lean ====
section
/-! SUPPORT. Inversion: what an engine step, a tick and each command of the host can do. -/

namespace Sys2Proof.Machine

/-- All that an engine step can do: fault without a program, soft halt, or run one instruction. -/
theorem engineStep_cases (s : State) :
    (s.prog = none ∧ engineStep s = .fault .noProgram) ∨
      ∃ p, s.prog = some p ∧
        ((p.length ≤ s.pc.toNat ∧ engineStep s = .next s.softHalt) ∨
          ∃ h : s.pc.toNat < p.length,
            engineStep s = exec (decode p[s.pc.toNat]) (s.fetch p[s.pc.toNat])) := by
  unfold engineStep
  cases hp : s.prog with
  | none => exact .inl ⟨rfl, rfl⟩
  | some p =>
    refine .inr ⟨p, rfl, ?_⟩
    simp only [engineStepOn]
    by_cases h : s.pc.toNat < p.length
    · exact .inr ⟨h, by rw [dif_pos h]⟩
    · exact .inl ⟨by omega, by rw [dif_neg h]⟩

@[simp] theorem State.stopped_count (s : State) : s.count.stopped = s.stopped := rfl

/-- All that a counted TICK can do on the loaded program: halt, soft halt, or run one instruction. -/
theorem runTick_cases (p : List InstrWord) (s : State) (hp : s.prog = some p) :
    (s.stopped = true ∧ runTick p s = .next s.halt) ∨
      (s.stopped = false ∧ p.length ≤ s.pc.toNat ∧ runTick p s = .next s.softHalt.halt) ∨
      (s.stopped = false ∧ ∃ h : s.pc.toNat < p.length,
        runTick p s = exec (decode p[s.pc.toNat]) (s.fetch p[s.pc.toNat])) := by
  unfold runTick
  by_cases hs : s.stopped = true
  · exact .inl ⟨hs, if_pos hs⟩
  rw [if_neg hs]
  have hs' : s.stopped = false := by simpa using hs
  rcases engineStep_cases s with ⟨hn, _⟩ | ⟨q, hq, he⟩
  · rw [hp] at hn
    cases hn
  obtain rfl : p = q := Option.some.inj (hp.symm.trans hq)
  rcases he with ⟨h, e⟩ | ⟨h, e⟩
  · exact .inr (.inl ⟨hs', h, by rw [if_pos h, e]; rfl⟩)
  · exact .inr (.inr ⟨hs', h, by rw [if_neg (Nat.not_le.mpr h), e]⟩)

/-- All that a TICK in RUNNING can do: fault without a program, halt, soft halt, or run one instruction. -/
theorem tick_running_cases (s : State) (hf : s.fsm = .running) :
    (s.prog = none ∧ tick s = .fault .noProgram) ∨
      ∃ p, s.prog = some p ∧
        ((s.stopped = true ∧ tick s = .next s.count.halt) ∨
          (s.stopped = false ∧ p.length ≤ s.pc.toNat ∧ tick s = .next s.count.softHalt.halt) ∨
          (s.stopped = false ∧ ∃ h : s.pc.toNat < p.length,
            tick s = exec (decode p[s.pc.toNat]) (s.count.fetch p[s.pc.toNat]))) := by
  cases hp : s.prog with
  | none => exact .inl ⟨rfl, by simp [tick, hf, hp]⟩
  | some p =>
    have e : tick s = runTick p s.count := by simp [tick, hf, hp]
    exact .inr ⟨p, rfl, by rw [e]; exact runTick_cases p s.count hp⟩

/-- All that a TICK can do outside RUNNING: nothing, or count. -/
theorem tick_not_running (s : State) (hf : s.fsm ≠ .running) :
    tick s = .next (if s.fsm.counts then s.count else s) := by
  unfold tick
  cases h : s.fsm <;> first | exact absurd h hf | rfl

/-- A LOAD gives RUNNING with the program, or is refused, or is ignored. -/
theorem loadCommand_cases (program : List InstrWord) (seeds : List (Word × Word))
    (remarks banner : List String) (s : State) :
    (s.fsm.booted = false ∧ loadCommand program seeds remarks banner s = .next s) ∨
      (s.fsm.booted = true ∧ program.length ≤ Config.progMax.val ∧
        loadCommand program seeds remarks banner s = .next (s.loadProgram program seeds remarks banner)) ∨
      (s.fsm.booted = true ∧ ¬ program.length ≤ Config.progMax.val ∧
        loadCommand program seeds remarks banner s = .refused .programTooLong) := by
  unfold loadCommand
  cases hb : s.fsm.booted with
  | false => exact .inl ⟨rfl, rfl⟩
  | true =>
    by_cases h : program.length ≤ Config.progMax.val
    · exact .inr (.inl ⟨rfl, h, by simp [h]⟩)
    · exact .inr (.inr ⟨rfl, h, by simp [h]⟩)

/-- A SET_PERIOD writes `period`, or is refused, or is ignored. -/
theorem setPeriod_cases (p : Nat) (s : State) :
    (s.fsm = .off ∧ setPeriod p s = .next s) ∨
      (s.fsm ≠ .off ∧ p ∈ Config.clockPeriods ∧ setPeriod p s = .next { s with period := p }) ∨
      (s.fsm ≠ .off ∧ p ∉ Config.clockPeriods ∧ setPeriod p s = .refused .periodNotSelectable) := by
  unfold setPeriod
  by_cases ho : s.fsm = .off
  · exact .inl ⟨ho, if_pos ho⟩
  · by_cases h : p ∈ Config.clockPeriods
    · exact .inr (.inl ⟨ho, h, by rw [if_neg ho, if_pos h]⟩)
    · exact .inr (.inr ⟨ho, h, by rw [if_neg ho, if_neg h]⟩)

/-- One step is the effect of the next input event on the state without it. -/
theorem step_eq (s : State) : step s = applyInput s.nextInput s.takeInput := rfl

end Sys2Proof.Machine
end

