-- ==== Sys2Proof/Laws/PerInstr.lean ====
section
/-! SUPPORT. A statement about every instruction, one lemma per constructor: the word of an instruction
matches its row of spec/opcode_table.json (spec/30_encoding.md R94), and its ignored field is 0 (R108). -/

namespace Sys2Proof.Laws

/-- The opcode of an instruction's row (R94). -/
def tableOp : Instr → BitVec 4
  | .nop => 0#4
  | .mov _ _ => 1#4
  | .load _ _ => 2#4
  | .store _ _ => 3#4
  | .add _ _ => 4#4
  | .sub _ _ => 5#4
  | .and _ _ => 6#4
  | .or _ _ => 7#4
  | .cmp _ _ => 8#4
  | .jeq _ => 9#4
  | .jmp _ => 10#4
  | .hlt => 11#4
  | .out _ => 12#4
  | .illegal13 => 13#4
  | .illegal14 => 14#4
  | .illegal15 => 15#4

/-- The encoding's opcode field is the row's, and bits 59 to 35 are 0. -/
def TableMatch.Statement (i : Instr) : Prop :=
  opField (encode i) = tableOp i ∧ (encode i).extractLsb' 35 25 = 0#25

theorem TableMatch.nop : TableMatch.Statement (.nop) :=
  ⟨opField_packWord _ _ _, ignField_packWord _ _ _⟩

theorem TableMatch.mov (rd : Reg) (imm : Word) : TableMatch.Statement (.mov rd imm) :=
  ⟨opField_packWord _ _ _, ignField_packWord _ _ _⟩

theorem TableMatch.load (rd : Reg) (src : MsOperand) : TableMatch.Statement (.load rd src) :=
  ⟨opField_packWord _ _ _, ignField_packWord _ _ _⟩

theorem TableMatch.store (rs : Reg) (addr : Word) : TableMatch.Statement (.store rs addr) :=
  ⟨opField_packWord _ _ _, ignField_packWord _ _ _⟩

theorem TableMatch.add (rd rs : Reg) : TableMatch.Statement (.add rd rs) :=
  ⟨opField_packWord _ _ _, ignField_packWord _ _ _⟩

theorem TableMatch.sub (rd rs : Reg) : TableMatch.Statement (.sub rd rs) :=
  ⟨opField_packWord _ _ _, ignField_packWord _ _ _⟩

theorem TableMatch.and (rd rs : Reg) : TableMatch.Statement (.and rd rs) :=
  ⟨opField_packWord _ _ _, ignField_packWord _ _ _⟩

theorem TableMatch.or (rd rs : Reg) : TableMatch.Statement (.or rd rs) :=
  ⟨opField_packWord _ _ _, ignField_packWord _ _ _⟩

theorem TableMatch.cmp (rl : Reg) (src : MsOperand) : TableMatch.Statement (.cmp rl src) :=
  ⟨opField_packWord _ _ _, ignField_packWord _ _ _⟩

theorem TableMatch.jeq (target : Word) : TableMatch.Statement (.jeq target) :=
  ⟨opField_packWord _ _ _, ignField_packWord _ _ _⟩

theorem TableMatch.jmp (target : Word) : TableMatch.Statement (.jmp target) :=
  ⟨opField_packWord _ _ _, ignField_packWord _ _ _⟩

theorem TableMatch.hlt : TableMatch.Statement (.hlt) :=
  ⟨opField_packWord _ _ _, ignField_packWord _ _ _⟩

theorem TableMatch.out (rs : Reg) : TableMatch.Statement (.out rs) :=
  ⟨opField_packWord _ _ _, ignField_packWord _ _ _⟩

theorem TableMatch.illegal13 : TableMatch.Statement (.illegal13) :=
  ⟨opField_packWord _ _ _, ignField_packWord _ _ _⟩

theorem TableMatch.illegal14 : TableMatch.Statement (.illegal14) :=
  ⟨opField_packWord _ _ _, ignField_packWord _ _ _⟩

theorem TableMatch.illegal15 : TableMatch.Statement (.illegal15) :=
  ⟨opField_packWord _ _ _, ignField_packWord _ _ _⟩

end Sys2Proof.Laws
end

