-- ==== Sys2Proof/Tests/Slice0.lean ====
section
/-! SUPPORT. Tests, and a witness for the hypotheses of every statement that has some. Expected values are
those of spec/95_test_vectors.md (named V-...), of the examples in the rules, or computed by hand from them. -/

namespace Sys2Proof.Tests

open Machine

/-! ## Helpers -/

/-- The outcome is a next state with the property. -/
def nextHas (o : Host.Outcome State Fault Refusal) (f : State → Bool) : Bool :=
  match o with
  | .next t => f t
  | .fault _ => false
  | .refused _ => false

/-- The state of an outcome; a fault or refusal gives the reset state. -/
def after (o : Host.Outcome State Fault Refusal) : State :=
  match o with
  | .next t => t
  | .fault _ => State.reset
  | .refused _ => State.reset

/-- A state with these registers and this `pc`. -/
def regsAt (x : Vector Word 8) (pc : Word) : State := { State.reset with x := x, pc := pc }

/-- The driver in RUNNING over a program, at `pc`, with an input list. -/
def running (p : List InstrWord) (pc : Word) (inputs : List Input) : State :=
  { State.reset with prog := some p, pc := pc, fsm := .running, inputs := inputs }

/-- The driver in a state, with an input list. -/
def inFsm (f : Fsm) (inputs : List Input) : State := { State.reset with fsm := f, inputs := inputs }

/-- The start state of 95_test_vectors.md 2.2, with `pc = 3`. -/
def nopState : State :=
  { regsAt #v[1, 2, 3, 4, 5, 6, 7, 8] 3 with
    flags := { zero := false, equal := true }
    lastAddr := some 9 }

/-- The start state of 95_test_vectors.md 2.3: `mem[5] = 55`, `mem[100] = 40`, `mem[700] = 9`, `mem[1023] = 77`. -/
def memState : State :=
  { regsAt #v[0, 0, 100, 0, 0, 700, 0xFFFFFFFF#32, 0] 0 with
    mem := [(20, 55), (400, 40), (2800, 9), (4092, 77)] }

/-- The start state of 95_test_vectors.md 2.4. -/
def aluState : State :=
  { regsAt #v[12, 10, 2147483647, 0x80000000#32, 1, 0xFFFFFFFF#32, 6, 3] 0 with
    flags := { zero := false, equal := true } }

/-- The start state of 95_test_vectors.md 2.5. -/
def cmpState : State := regsAt #v[42, 42, 5, 7, 0, 0, 0, 0] 0

/-- A state with `flags.equal` at `pc`. -/
def flagState (equal : Bool) (pc : Word) : State :=
  { State.reset with flags := { zero := false, equal := equal }, pc := pc }

/-! ## WellFormed smoke -/

/-- R97: an immediate below 8 has no encoding in LOAD; 8 has. -/
theorem test_wf_load_refuses_small_immediate :
    (Instr.load 1 (.imm 7)).wf = false ∧ (Instr.load 1 (.imm 8)).wf = true := by decide

/-- R97: an immediate below 8 has no encoding in CMP; 8 has. -/
theorem test_wf_cmp_refuses_small_immediate :
    (Instr.cmp 0 (.imm 0)).wf = false ∧ (Instr.cmp 0 (.imm 8)).wf = true := by decide

/-! ## Decoding: words written out from the spec's encoding, one constructor at a time -/

theorem test_decode_nop : decode 0x0000000000000000#64 = .nop := by decide
/-- V-DEC-1: the ignored field is all ones. -/
theorem test_decode_mov : decode 0x1FFFFFF80000000F#64 = .mov 0 15 := by decide
/-- V-DEC-2: bit 35 is no part of `ra`. -/
theorem test_decode_mov_bit35 : decode 0x1000000800000005#64 = .mov 0 5 := by decide
/-- V-DEC-4: the greatest register operand. -/
theorem test_decode_load_reg : decode 0x2000000100000007#64 = .load 1 (.reg 7) := by decide
/-- V-DEC-5 and V-DEC-6: the least and a great direct address. -/
theorem test_decode_load_imm : decode 0x2000000100000008#64 = .load 1 (.imm 8) ∧
    decode 0x2000000180000000#64 = .load 1 (.imm 0x80000000#32) := by decide
/-- R108. -/
theorem test_decode_store : decode 0x30000001FFFFFFFF#64 = .store 1 0xFFFFFFFF#32 := by decide
/-- V-DEC-3. -/
theorem test_decode_add : decode 0x40000000FFFFFFF9#64 = .add 0 1 := by decide
/-- R184. -/
theorem test_decode_sub : decode 0x5000000300000004#64 = .sub 3 4 := by decide
/-- R185. -/
theorem test_decode_and : decode 0x6000000500000006#64 = .and 5 6 := by decide
/-- R186. -/
theorem test_decode_or : decode 0x7000000700000000#64 = .or 7 0 := by decide
/-- R190. -/
theorem test_decode_cmp : decode 0x800000010000002A#64 = .cmp 1 (.imm 42) ∧
    decode 0x8000000100000003#64 = .cmp 1 (.reg 3) := by decide
/-- R200. -/
theorem test_decode_jeq : decode 0x9000000000000007#64 = .jeq 7 := by decide
/-- V-ENC-5. -/
theorem test_decode_jmp : decode 0xA0000000FFFFFFFF#64 = .jmp 4294967295#32 := by decide
/-- R205. -/
theorem test_decode_hlt : decode 0xB000000000000000#64 = .hlt := by decide
/-- V-DEC-7. -/
theorem test_decode_out : decode 0xC0000003FFFFFFFF#64 = .out 3 := by decide
/-- V-DEC-8. -/
theorem test_decode_illegal : decode 0xD000000000000000#64 = .illegal13 ∧
    decode 0xE123456789ABCDEF#64 = .illegal14 ∧ decode 0xFFFFFFFFFFFFFFFF#64 = .illegal15 := by decide
/-- R108's examples, and V-ENC-6. -/
theorem test_encode_words :
    [Instr.mov 0 15, .mov 1 25, .add 0 1, .store 0 100, .out 0, .hlt, .load 2 (.reg 5),
      .cmp 1 (.imm 42), .store 1 0xFFFFFFFF#32, .nop, .out 7].map encode =
    [0x100000000000000F#64, 0x1000000100000019#64, 0x4000000000000001#64, 0x3000000000000064#64,
      0xC000000000000000#64, 0xB000000000000000#64, 0x2000000200000005#64, 0x800000010000002A#64,
      0x30000001FFFFFFFF#64, 0#64, 0xC000000700000000#64] := by decide
/-- The host's reading of a table word. -/
theorem test_decodeTableWord : decodeTableWord 64 0x1000000100000019 = some (.mov 1 25) := by decide

/-! ## Assembler and disassembler -/

/-- V-ENC-2, V-ENC-3, V-ASM-2. -/
theorem test_assemble_accepts : assemble .mov [4, -1] = .ok 0x10000004FFFFFFFF#64 ∧
    assemble .mov [0, -2147483648] = .ok 0x1000000080000000#64 ∧
    assemble .load [1, 2147483647] = .ok 0x200000017FFFFFFF#64 := by decide

/-- V-ASM-1. -/
theorem test_assemble_refuses : assemble .mov [8, 1] = .error .registerOutOfRange ∧
    assemble .load [0, -1] = .error .negativeModeOperand ∧
    assemble .cmp [0, -5] = .error .negativeModeOperand ∧
    assemble .jmp [-1] = .error .operandOutOfRange ∧
    assemble .mov [0, 2147483648] = .error .operandOutOfRange ∧
    assemble .add [1] = .error .wrongOperandCount := by decide

set_option maxRecDepth 8000 in
/-- P1 as the source writes it (R103). -/
theorem test_assembleText_list :
    assembleText "[MOV(0,15), MOV(1,25), ADD(0,1), STORE(0,100), OUT(0), HLT]".toList =
      .ok [0x100000000000000F#64, 0x1000000100000019#64, 0x4000000000000001#64, 0x3000000000000064#64,
        0xC000000000000000#64, 0xB000000000000000#64] := by decide

set_option maxRecDepth 8000 in
/-- Labels, a comment and a hexadecimal operand (R104), by the words of P2's loop. -/
theorem test_assembleText_labels :
    assembleText "loop: CMP(1,0x2A) ; found it?\n  JEQ(done)\n  JMP(loop)\ndone: HLT".toList =
      .ok [0x800000010000002A#64, 0x9000000000000003#64, 0xA000000000000000#64, 0xB000000000000000#64] := by
  decide

/-- V-ASM-1: a refusal names its line (R110). -/
theorem test_assembleText_refuses :
    assembleText "NOP\nFOO(1)".toList = .error (2, .unknownMnemonic) ∧
      assembleText "JEQ(nolabel)".toList = .error (1, .undefinedLabel) := by decide

/-- R110: a refusal of a list item names the line on which the item stands. -/
theorem test_assembleText_list_refusal_line :
    assembleText "[NOP,\nFOO(1)\n]".toList = .error (2, .unknownMnemonic) ∧
      assembleText "\n[ADD(1),\n NOP]".toList = .error (2, .wrongOperandCount) ∧
      assembleText "[NOP,\n HLT,\n]".toList = .error (3, .malformed) := by decide

/-- Log entry 16: a malformed line is named before an earlier unknown mnemonic. -/
theorem test_assembleText_refusal_order :
    assembleText "FOO(1)\n1bad: NOP".toList = .error (2, .malformed) := by decide

/-- Log entry 16: a label after the last instruction stands for the program's length. -/
theorem test_assembleText_end_label :
    assembleText "JMP(stop)\nstop:".toList = .ok [0xA000000000000001#64] := by decide

/-- R111. -/
theorem test_disassemble : disassemble 0x10000004FFFFFFFF#64 = "MOV(4,-1)".toList ∧
    disassemble 0xE123456789ABCDEF#64 = "ILLEGAL(0xE123456789ABCDEF)".toList := by decide

/-! ## One instruction each (95_test_vectors.md 2.2 to 2.8) -/

/-- V-NOP-1. -/
theorem test_nop : nextHas (exec .nop nopState)
    (fun t => t.pc == 4 && t.x == #v[1, 2, 3, 4, 5, 6, 7, 8] && t.flags.equal && t.lastAddr == some 9) = true := by
  decide
/-- V-MOV-3. -/
theorem test_mov : nextHas (exec (.mov 4 0xFFFFFFFF#32) nopState)
    (fun t => t.x == #v[1, 2, 3, 4, 0xFFFFFFFF#32, 6, 7, 8] && t.pc == 4 && t.flags.equal) = true := by decide
/-- V-MOV-5, from its word: MOV's value is never a register index. -/
theorem test_mov_small_value : nextHas (exec (decode 0x1000000000000005#64) nopState)
    (fun t => t.getReg 0 == 5) = true := by decide
/-- V-LOAD-7: the old register is the address, then it is overwritten. -/
theorem test_load_indirect : nextHas (exec (.load 5 (.reg 5)) memState)
    (fun t => t.getReg 5 == 9 && t.lastAddr == some 700 && t.pc == 1) = true := by decide
/-- V-LOAD-5: register-indirect through -1. -/
theorem test_load_out_of_range : nextHas (exec (.load 0 (.reg 6)) memState)
    (fun t => t.getReg 0 == 0 && t.lastAddr == none && t.pc == 1 &&
      t.klog == [.memFault .loadFault 0xFFFFFFFF#32]) = true := by decide
/-- V-STORE-2, read back from its four cells. -/
theorem test_store : nextHas (exec (.store 5 1023) memState)
    (fun t => t.mem.readWord 1023 == 700 && t.lastAddr == some 1023 && t.pc == 1 &&
      t.mem == [(20, 55), (400, 40), (2800, 9), (4092, 188), (4093, 2)]) = true := by decide
/-- V-STORE-4. -/
theorem test_store_out_of_range : nextHas (exec (.store 2 1024) memState)
    (fun t => t.mem == memState.mem && t.lastAddr == none && t.pc == 1 &&
      t.klog == [.memFault .storeFault 1024]) = true := by decide
/-- V-ADD-2: overflow wraps, no flag. -/
theorem test_add_wraps : nextHas (exec (.add 2 4) aluState)
    (fun t => t.getReg 2 == 0x80000000#32 && t.flags == aluState.flags && t.pc == 1) = true := by decide
/-- V-ADD-3: both operands are one register. -/
theorem test_add_same_register : nextHas (exec (.add 3 3) aluState) (fun t => t.getReg 3 == 0) = true := by decide
/-- V-SUB-1: the order of the operands. -/
theorem test_sub : nextHas (exec (.sub 1 0) aluState)
    (fun t => t.getReg 1 == 0xFFFFFFFE#32 && t.getReg 0 == 12 && t.pc == 1) = true := by decide
/-- V-SUB-2: underflow wraps. -/
theorem test_sub_wraps : nextHas (exec (.sub 3 4) aluState) (fun t => t.getReg 3 == 2147483647) = true := by decide
/-- V-AND-2. -/
theorem test_and : nextHas (exec (.and 5 6) aluState) (fun t => t.getReg 5 == 6 && t.pc == 1) = true := by decide
/-- V-OR-2. -/
theorem test_or : nextHas (exec (.or 7 0) aluState) (fun t => t.getReg 7 == 15 && t.pc == 1) = true := by decide
/-- V-CMP-1. -/
theorem test_cmp_immediate : nextHas (exec (.cmp 1 (.imm 42)) cmpState)
    (fun t => t.flags.equal && t.pc == 1) = true := by decide
/-- V-CMP-5, from its word: an operand of 7 is a register. -/
theorem test_cmp_register : nextHas (exec (decode 0x8000000300000007#64) cmpState)
    (fun t => !t.flags.equal && t.pc == 1) = true := by decide
/-- V-JEQ-1. -/
theorem test_jeq_taken : nextHas (exec (.jeq 7) (flagState true 4))
    (fun t => t.pc == 7 && t.flags.equal) = true := by decide
/-- V-JEQ-2. -/
theorem test_jeq_not_taken : nextHas (exec (.jeq 7) (flagState false 4)) (fun t => t.pc == 5) = true := by decide
/-- V-JMP-3. -/
theorem test_jmp : nextHas (exec (.jmp 4294967295#32) (flagState true 4))
    (fun t => t.pc == 4294967295#32 && t.flags.equal) = true := by decide
/-- V-HLT-1. -/
theorem test_hlt : nextHas (engineStep (running [0xB000000000000000#64] 0 []))
    (fun t => t.ir == 0xB000000000000000#64 && t.pc == 0 && t.klog == [.exec 0 0xB000000000000000#64]) = true := by
  decide
/-- V-OUT-2. -/
theorem test_out : nextHas (exec (.out 4) (regsAt #v[0, 0, 0, 0, 0xFFFFFFFE#32, 0, 0, 0] 0))
    (fun t => t.console == [.word 0xFFFFFFFE#32] && t.klog == [.syscallOut 0xFFFFFFFE#32] && t.pc == 1) = true := by
  decide
/-- V-OUT-1, V-OUT-2, V-OUT-3, V-OUT-4: the rendered lines. -/
theorem test_out_rendering : (ConsoleLine.word 40).text = "40".toList ∧
    (ConsoleLine.word 0xFFFFFFFE#32).text = "-2".toList ∧ (ConsoleLine.word 0).text = "0".toList ∧
    (ConsoleLine.word 0x80000000#32).text = "-2147483648".toList := by decide
/-- V-ILL-1. -/
theorem test_illegal13 : nextHas (engineStep (running [0xD000000000000000#64] 0 []))
    (fun t => t.err && t.pc == 0 && t.ir == 0xD000000000000000#64 &&
      t.klog == [.exec 0 0xD000000000000000#64, .illegalWord 0 0xD000000000000000#64]) = true := by decide
/-- R99, opcode 14. -/
theorem test_illegal14 : nextHas (exec .illegal14 nopState)
    (fun t => t.err && t.pc == 3 && t.x == nopState.x) = true := by decide
/-- R99, opcode 15. -/
theorem test_illegal15 : nextHas (exec .illegal15 nopState)
    (fun t => t.err && t.pc == 3 && t.flags.equal) = true := by decide

/-! ## Port requests (20_memory.md R67) -/

/-- LOAD issues one READ at its effective address, STORE one WRITE of its register, HLT none. -/
theorem test_port_requests :
    ((portRequest (.load 3 (.reg 2)) memState).kind = .read ∧
      (portRequest (.load 3 (.reg 2)) memState).addr = 100) ∧
      portRequest (.store 5 1023) memState = { kind := .write, addr := 1023, wdata := 700 } ∧
      (portRequest .hlt memState).kind = .none := by decide

/-- An engine step issues the fetched instruction's request, and NONE in a soft halt. -/
theorem test_engine_requests :
    (running [0x30000005000003FF#64] 0 []).engineRequest = { kind := .write, addr := 1023, wdata := 0 } ∧
      (running [0x30000005000003FF#64] 1 []).engineRequest.kind = .none := by decide

/-! ## The driver (95_test_vectors.md 2.7 and 2.9) -/

/-- A word placed after reset is what the next step runs. -/
theorem test_withFetchWord : nextHas (step (State.reset.withFetchWord 64 0x1000000100000019))
    (fun t => t.getReg 1 == 25 && t.pc == 1 && t.cycle == 1 && t.ir == 0x1000000100000019#64) = true := by decide
/-- H3 and H4: nothing but BOOTING from reset, whatever the number of ticks. -/
theorem test_tick_booting : nextHas (step State.reset) (fun t => t.fsm == .booting && t.cycle == 0) = true := by
  decide
/-- V-HLT-3: the second tick enters HALTED. -/
theorem test_halting_tick :
    nextHas (step (after (step (running [0xB000000000000000#64] 0 []))))
      (fun t => t.fsm == .halted && t.prog == none && t.cycle == 2 && t.haltedStatus) = true := by decide
/-- R143: a tick in HALTED keeps the final values and counts. -/
theorem test_tick_halted : nextHas (step { memState with fsm := .halted, ir := 0xB000000000000000#64, cycle := 7 })
    (fun t => t.x == memState.x && t.mem == memState.mem && t.ir == 0xB000000000000000#64 && t.fsm == .halted &&
      t.cycle == 8) = true := by decide
/-- V-SH-2. -/
theorem test_overrun_tick : nextHas (step (running (List.replicate 10 0#64) 4294967295#32 []))
    (fun t => t.fsm == .halted && t.prog == none && t.cycle == 1 && t.klog == [.softHalt 4294967295#32]) = true := by
  decide
/-- R270: a JEQ directly after a CMP sees the new flag. -/
theorem test_cmp_then_jeq :
    nextHas (step (after (step (running [0x8000000100000001#64, 0x9000000000000000#64] 0 []))))
      (fun t => t.pc == 0 && t.flags.equal) = true := by decide
/-- H10's seeds, over an empty program. -/
theorem test_seeds :
    let s := (inFsm .idle []).loadProgram [] [(100, 7), (2000, 1)] [] []
    (s.mem == [(400, 7)] && s.klog == [.memFault .storeFault 2000] && s.fsm == .running && s.lastAddr == none) =
      true := by decide
/-- R128: the log keeps the last 50 events. -/
theorem test_log_ring :
    (({ State.reset with klog := List.replicate 50 (.softHalt 0) }).emit (.softHalt 1)).klog =
      List.replicate 49 (.softHalt 0) ++ [.softHalt 1] := by decide
/-- R21: in OFF no output carries a value. -/
theorem test_off_outputs : (State.poweredOff 0 []).snapshot = none ∧ (State.poweredOff 0 []).memSnapshot = none :=
  ⟨rfl, rfl⟩

/-! ## Witnesses: a state and operands that meet the hypotheses of each statement -/

theorem witness_DecodeOfEncodeIsIdentity : (Instr.load 1 (.imm 8)).wf = true ∧ (Instr.cmp 7 (.reg 7)).wf = true := by
  decide

theorem witness_EncoderAndDecoderAreInverse :
    assemble .store [7, -2147483648] = .ok 0x3000000780000000#64 ∧
      assemble .cmp [0, 7] = .ok 0x8000000000000007#64 ∧
      canonicalWord 0x4000000000000007#64 = true ∧ canonicalWord 0x2000000780000000#64 = true := by decide

theorem witness_DecoderIgnoresUnusedBits :
    let w := 0x1FFFFFF80000000F#64
    let w' := 0x100000000000000F#64
    w ≠ w' ∧ w &&& usedMask (opField w) = w' &&& usedMask (opField w) := by decide

theorem witness_BoundsCheckIsUnsignedLess :
    inRange 0 = true ∧ inRange 1023 = true ∧ inRange 1024 = false ∧ inRange 0xFFFFFFFF#32 = false := by decide

theorem witness_WordReadAfterWrite : memState.mem.wf = true ∧ (Memory.wf [] = true) := by decide

/-- Two memories that were written in different orders. -/
theorem witness_EqualWordsEqualMemory :
    let m := (Memory.writeWord [] 5 55).writeWord 100 40
    let m' := (Memory.writeWord [] 100 40).writeWord 5 55
    m.wf = true ∧ m'.wf = true ∧ ∀ i, m.readWord i = m'.readWord i :=
  ⟨rfl, rfl, fun _ => rfl⟩

theorem witness_LoadReadsWordInRange : inRange (memState.operand (.reg 2)) = true ∧
    inRange (memState.operand (.reg 0)) = true ∧ inRange (memState.operand (.imm 1023)) = true := by decide

theorem witness_StoreWritesWordInRange : memState.mem.wf = true ∧ inRange 0 = true ∧ inRange 1023 = true := by decide

theorem witness_OutOfRangeAccessOnlyLogs : inRange (memState.operand (.reg 6)) = false ∧
    inRange (memState.operand (.imm 1024)) = false ∧ inRange 0xFFFFFFFF#32 = false ∧ inRange 1024 = false := by
  decide

/-- Both operand forms: the stored index 100 is named by `x[2]` and directly. -/
theorem witness_StoreThenLoadReturnsWord :
    memState.mem.wf = true ∧ inRange 100 = true ∧
      ∃ t, exec (.store 5 100) memState = .next t ∧
        inRange (t.operand (.reg 2)) = true ∧ memIndex (t.operand (.reg 2)) = memIndex 100 ∧
        inRange (t.operand (.imm 100)) = true ∧ memIndex (t.operand (.imm 100)) = memIndex 100 :=
  ⟨rfl, rfl, _, rfl, rfl, rfl, rfl, rfl⟩

/-- Each of the three forms, with both operands one register in the last. -/
theorem witness_SubAndOrWriteResult :
    let forms := fun (rd rs : Reg) (i : Instr) (r : Word) =>
      (i = .sub rd rs ∧ r = aluState.getReg rd - aluState.getReg rs) ∨
        (i = .and rd rs ∧ r = aluState.getReg rd &&& aluState.getReg rs) ∨
        (i = .or rd rs ∧ r = aluState.getReg rd ||| aluState.getReg rs)
    forms 1 0 (.sub 1 0) 0xFFFFFFFE#32 ∧ forms 5 6 (.and 5 6) 6 ∧ forms 7 7 (.or 7 7) 3 := by decide

theorem witness_IllegalWordsSetErr (i : Instr) (h : i ∈ [Instr.illegal13, .illegal14, .illegal15]) :
    i = .illegal13 ∨ i = .illegal14 ∨ i = .illegal15 := by simpa using h

/-- The premise `exec i s = .next t` of the statements over all instructions, with a well-formed memory and
each of their cases: in and out of range, the flag set and clear, `err` set before and not. -/
theorem witness_AllInstructions :
    memState.mem.wf = true ∧
      ∀ i ∈ [Instr.nop, .mov 7 8, .load 1 (.imm 1023), .load 1 (.imm 1024), .load 3 (.reg 2), .load 0 (.reg 6),
        .store 5 0, .store 5 1024, .add 0 0, .sub 1 0, .and 5 6, .or 7 0, .cmp 1 (.imm 8), .cmp 1 (.reg 7),
        .jeq 0, .jmp 4294967295#32, .hlt, .out 7, .illegal13, .illegal14, .illegal15],
        ∀ s ∈ [memState, nopState, { memState with err := true }], ∃ t, exec i s = .next t := by
  refine ⟨rfl, fun i hi s hs => ?_⟩
  simp only [List.mem_cons, List.not_mem_nil, or_false] at hi
  rcases hi with rfl | rfl | rfl | rfl | rfl | rfl | rfl | rfl | rfl | rfl | rfl | rfl | rfl | rfl | rfl | rfl | rfl |
    rfl | rfl | rfl | rfl <;> exact ⟨_, rfl⟩

/-- The soft-halt clause of `PcAfterEachInstruction`, and `SoftHaltRecursOnEveryCall`: `pc` at the program's end, far
past it, and an empty program. -/
theorem witness_SoftHaltRecursOnEveryCall :
    (running [0#64] 1 []).prog = some [0#64] ∧ [0#64].length ≤ (1#32).toNat ∧
      [0#64].length ≤ (4294967295#32).toNat ∧ ([] : List InstrWord).length ≤ (0#32).toNat := by decide

/-- The first and the last index of a program. -/
theorem witness_StepRunsDecodedInstruction :
    ∀ pc ∈ [0#32, 1#32],
      let s := running [0x1000000100000019#64, 0x1000000100000019#64] pc []
      s.nextInput = .tick ∧ s.fsm = .running ∧ s.prog = some [0x1000000100000019#64, 0x1000000100000019#64] ∧
        s.stopped = false ∧
        [0x1000000100000019#64, 0x1000000100000019#64][s.pc.toNat]? = some 0x1000000100000019#64 ∧
        decode 0x1000000100000019#64 = .mov 1 25 ∧ (Instr.mov 1 25).wf = true := by
  intro pc h
  simp only [List.mem_cons, List.not_mem_nil, or_false] at h
  rcases h with rfl | rfl <;> exact ⟨rfl, rfl, rfl, rfl, rfl, rfl, rfl⟩

theorem witness_HaltingWordRepeats :
    [0xB000000000000000#64, 0xF000000000000000#64][0]? = some 0xB000000000000000#64 ∧
      isHltWord 0xB000000000000000#64 = true ∧
      [0xB000000000000000#64, 0xF000000000000000#64][1]? = some 0xF000000000000000#64 ∧
      isIllegalWord 0xF000000000000000#64 = true ∧ isIllegalWord 0xD000000000000000#64 = true := by decide

/-- A step with a fault event, and one without. -/
theorem witness_AtMostOneFaultEventPerStep :
    (∃ t, engineStep (running [0x2000000100000400#64] 0 []) = .next t ∧
        t.klog = [.exec 0 0x2000000100000400#64, .memFault .loadFault 1024]) ∧
      ∃ t, engineStep (running [0#64] 0 []) = .next t := ⟨⟨_, rfl, rfl⟩, _, rfl⟩

/-- The only index of a program of one word. -/
theorem witness_PcIncrementNeverWraps :
    (running [0#64] 0 []).prog = some [0#64] ∧ [0#64].length ≤ 2 ^ 32 - 1 ∧ (0#32).toNat < [0#64].length := by
  decide

/-- A counting tick in IDLE and in HALTED, a tick that does not count, a power-on, and an input of another
kind. -/
theorem witness_CycleCountsTicks :
    (∃ t, step (inFsm .idle []) = .next t ∧ t.cycle = 1#64) ∧ (∃ t, step (inFsm .booting []) = .next t) ∧
      (∃ t, step (State.poweredOff 3 [.powerOn]) = .next t) ∧ (inFsm .idle []).nextInput ≠ .powerOff ∧
      (inFsm .idle []).nextInput = .tick ∧ (inFsm .halted []).nextInput = .tick ∧
      (inFsm .idle []).fsm = .idle ∧ (inFsm .halted []).fsm = .halted ∧
      ∃ t, step (inFsm .halted [.format]) = .next t :=
  ⟨⟨_, rfl, rfl⟩, ⟨_, rfl⟩, ⟨_, rfl⟩, by decide, rfl, rfl, rfl, rfl, _, rfl⟩

/-- Each row of R140's table gives a next state (LOAD with an empty program, which is never too long). -/
theorem witness_FsmFollowsTransitionTable :
    ∀ s ∈ [State.poweredOff 0 [.powerOn], inFsm .booting [.bootDone], inFsm .idle [.load [] [] [] []],
      running [] 0 [.load [] [] [] []], inFsm .halted [.load [] [] [] []], inFsm .idle [.format],
      running [] 0 [.format], inFsm .halted [.format], inFsm .booting [.powerOff], running [] 0 [.powerOff],
      running [] 0 [], { running [0#64] 0 [] with err := true }, running [0#64] 0 [], inFsm .idle [.bootDone]],
      ∃ t, step s = .next t := by
  intro s h
  simp only [List.mem_cons, List.not_mem_nil, or_false] at h
  rcases h with rfl | rfl | rfl | rfl | rfl | rfl | rfl | rfl | rfl | rfl | rfl | rfl | rfl | rfl <;>
    exact ⟨_, rfl⟩

/-- Ignored inputs, and the HOST input in each powered state. -/
theorem witness_IgnoredInputsChangeNothing :
    (∀ s ∈ [State.poweredOff 0 [], inFsm .booting [], State.poweredOff 0 [.load [0#64] [] [] []],
      inFsm .booting [.format], State.poweredOff 0 [.setPeriod 3], running [] 0 [.powerOn], inFsm .idle [.bootDone]],
      ignores s.fsm s.nextInput = true) ∧
    ∀ f ∈ [Fsm.booting, .idle, .running, .halted],
      (inFsm f [.hostLog "started"]).fsm ≠ .off ∧ (inFsm f [.hostLog "started"]).nextInput = .hostLog "started" := by
  constructor
  · intro s h
    simp only [List.mem_cons, List.not_mem_nil, or_false] at h
    rcases h with rfl | rfl | rfl | rfl | rfl | rfl | rfl <;> rfl
  · decide

/-- HLT, and an illegal word; the state after the first tick has a TICK next. -/
theorem witness_HaltIsDetectedOneTickLater :
    ∀ w ∈ [0xB000000000000000#64, 0xE000000000000000#64],
      let s := running [w] 0 []
      s.nextInput = .tick ∧ s.fsm = .running ∧ s.prog = some [w] ∧ s.stopped = false ∧
        [w][s.pc.toNat]? = some w ∧ (isHltWord w = true ∨ isIllegalWord w = true) ∧
        ∃ t, step s = .next t ∧ t.nextInput = .tick := by
  intro w h
  simp only [List.mem_cons, List.not_mem_nil, or_false] at h
  rcases h with rfl | rfl
  · exact ⟨rfl, rfl, rfl, rfl, rfl, .inl rfl, _, rfl, rfl⟩
  · exact ⟨rfl, rfl, rfl, rfl, rfl, .inr rfl, _, rfl, rfl⟩

/-- `pc` at the program's end, and at the greatest index. -/
theorem witness_OverrunHaltsOnItsTick :
    ∀ pc ∈ [1#32, 4294967295#32],
      let s := running [0#64] pc []
      s.nextInput = .tick ∧ s.fsm = .running ∧ s.prog = some [0#64] ∧ s.stopped = false ∧
        [0#64].length ≤ s.pc.toNat := by
  intro pc h
  simp only [List.mem_cons, List.not_mem_nil, or_false] at h
  rcases h with rfl | rfl <;> exact ⟨rfl, rfl, rfl, rfl, by decide⟩

/-- The three cases: kept by a normal tick, written by a LOAD, discarded by a format. -/
theorem witness_LoadedProgramIsImmutable :
    (∃ t, step (running [0#64] 0 []) = .next t ∧ t.prog = some [0#64]) ∧
      (∃ t, step (inFsm .idle [.load [] [] [] []]) = .next t ∧ t.prog = some []) ∧
      ∃ t, step (running [0#64] 0 [.format]) = .next t ∧ t.prog = none :=
  ⟨⟨_, rfl, rfl⟩, ⟨_, rfl, rfl⟩, _, rfl, rfl⟩

theorem witness_PowerOnCreatesResetValues :
    (State.poweredOff 3 [.powerOn]).fsm = .off ∧ (State.poweredOff 3 [.powerOn]).nextInput = .powerOn := ⟨rfl, rfl⟩

theorem witness_PowerOffDiscardsAllState :
    (running [0#64] 0 [.powerOff]).fsm ≠ .off ∧ (running [0#64] 0 [.powerOff]).nextInput = .powerOff ∧
      (inFsm .booting [.powerOff]).fsm ≠ .off := by decide

/-- Two cores that differ in registers, memory and driver state. -/
theorem witness_PowerCycleForgetsEverything :
    let s := { memState with inputs := [.powerOff, .powerOn], fsm := .halted }
    let s' := running [0#64] 0 [.powerOff, .powerOn]
    s.x ≠ s'.x ∧ s.mem ≠ s'.mem ∧ s.fsm ≠ .off ∧ s'.fsm ≠ .off ∧
      s.inputs = .powerOff :: .powerOn :: [] ∧ s'.inputs = .powerOff :: .powerOn :: [] ∧ s.draws = s'.draws := by
  decide

/-- Seeds at both ends of memory and just past it, a later seed to the same address, in each of the three
states. -/
theorem witness_LoadInstallsProgramAndSeeds :
    ∀ f ∈ [Fsm.idle, .running, .halted],
      let seeds : List (Word × Word) := [(0, 1), (1023, 2), (1024, 3), (0, 4), (0xFFFFFFFF#32, 5)]
      let s := { memState with fsm := f, inputs := [.load [] seeds ["loaded"] ["demo"]] }
      s.mem.wf = true ∧ s.klog.length ≤ 50 ∧ (s.fsm = .idle ∨ s.fsm = .running ∨ s.fsm = .halted) ∧
        s.nextInput = .load [] seeds ["loaded"] ["demo"] ∧
        ([] : List InstrWord).length ≤ Config.progMax.val := by
  intro f h
  simp only [List.mem_cons, List.not_mem_nil, or_false] at h
  rcases h with rfl | rfl | rfl
  · exact ⟨rfl, by decide, .inl rfl, rfl, Nat.zero_le _⟩
  · exact ⟨rfl, by decide, .inr (.inl rfl), rfl, Nat.zero_le _⟩
  · exact ⟨rfl, by decide, .inr (.inr rfl), rfl, Nat.zero_le _⟩

/-- The shortest program that is too long. -/
theorem witness_TooLongProgramIsRefused :
    let program : List InstrWord := List.replicate (Config.progMax.val + 1) 0#64
    let s := inFsm .idle [.load program [] [] []]
    (s.fsm = .idle ∨ s.fsm = .running ∨ s.fsm = .halted) ∧ s.nextInput = .load program [] [] [] ∧
      Config.progMax.val < program.length :=
  ⟨.inl rfl, rfl, by simp⟩

theorem witness_FormatZeroesMemoryAndIdles :
    let s := { memState with fsm := .running, prog := some [0#64], inputs := [.format] }
    (s.fsm = .idle ∨ s.fsm = .running ∨ s.fsm = .halted) ∧ s.nextInput = .format := by decide

/-- The default period is a member; the clause of OFF and of the other states. -/
theorem witness_SetPeriodWritesOnlyPeriod :
    Config.clockPeriodDefault ∈ Config.clockPeriods ∧
      (inFsm .booting [.setPeriod Config.clockPeriodDefault]).nextInput = .setPeriod Config.clockPeriodDefault ∧
      (inFsm .booting []).fsm ≠ .off ∧ (State.poweredOff 0 []).fsm = .off :=
  ⟨List.mem_cons_self, rfl, by decide, rfl⟩

theorem witness_BootDoneEntersIdle :
    (inFsm .booting [.bootDone]).fsm = .booting ∧ (inFsm .booting [.bootDone]).nextInput = .bootDone := by decide

/-- A state of the invariant with a non-empty memory and log, in IDLE, whose step counts a tick. -/
def invState : State :=
  { memState with
    fsm := .idle
    temp := 85
    klog := [.softHalt 1]
    console := [.word 40]
    ir := 0xB000000000000000#64
    cycle := 7 }

theorem witness_StepKeepsInvariant : MachineInv invState ∧ ∃ t, step invState = .next t := by
  refine ⟨⟨rfl, by decide, by decide, List.mem_cons_self, rfl, by decide, ?_, ?_, rfl, ?_⟩, _, rfl⟩
  · intro p h
    cases h
  · intro p h
    cases h
  · intro h
    cases h

/-- The same state with an admissible input. -/
theorem witness_StepAlwaysReturns : MachineInv invState ∧ invState.nextInput.admissible = true ∧
    Input.admissible (.setPeriod Config.clockPeriodDefault) = true ∧ Input.admissible (.load [] [] [] []) = true :=
  ⟨witness_StepKeepsInvariant.1, rfl, decide_eq_true List.mem_cons_self, rfl⟩

/-- Two states that differ in the gauge, the log and the console; a step of each kind of outcome. -/
theorem witness_OutputsHaveNoEffect :
    let s := running [0x1000000100000019#64] 0 []
    let s' := { running [0x1000000100000019#64] 0 [] with temp := 42, klog := [.softHalt 1], console := [.word 1] }
    s.klog ≠ s'.klog ∧ s.eraseOutputs = s'.eraseOutputs ∧ (∃ t, step s = .next t) ∧
      (∃ r, step (inFsm .running []) = .fault r) ∧
      ∃ r, step (inFsm .idle [.load (List.replicate (Config.progMax.val + 1) 0#64) [] [] []]) = .refused r :=
  ⟨by decide, rfl, ⟨_, rfl⟩, ⟨_, rfl⟩, _, if_neg (by simp)⟩

end Sys2Proof.Tests
end

section
/-! What an instruction and an input event can do, each said once as an inductive relation. The proofs about every
instruction (spec/10_state.md, spec/40_step_engine.md) and about every step are case splits on these. -/

namespace Sys2Proof.Machine

/-! ## The decoder at the halting words -/

theorem isHltWord_iff_opField (w : InstrWord) : isHltWord w = true ↔ (opField w).toNat = 11 := by
  simp [isHltWord, ← BitVec.toNat_inj]

/-- The words that the driver's halt test takes for HLT are those that decode to HLT (R143). -/
theorem isHltWord_iff_decode (w : InstrWord) : isHltWord w = true ↔ decode w = .hlt := by
  rw [isHltWord_iff_opField]
  unfold decode
  split <;> simp_all

/-- The illegal words are those that decode to an illegal constructor (R99). -/
theorem isIllegalWord_iff_decode (w : InstrWord) :
    isIllegalWord w = true ↔ decode w = .illegal13 ∨ decode w = .illegal14 ∨ decode w = .illegal15 := by
  simp only [isIllegalWord, decide_eq_true_eq]
  have hlt := (opField w).isLt
  unfold decode
  split <;> simp_all
  omega

/-! ## LOAD and STORE by the bounds check -/

theorem exec_load_inRange {rd : Reg} {src : MsOperand} {s : State} (h : inRange (s.operand src) = true) :
    exec (.load rd src) s =
      .next (((s.touch (memIndex (s.operand src))).setReg rd
        (s.mem.readWord (memIndex (s.operand src)))).advance) := by
  rw [exec, execLoad_eq, memRead, if_pos h]
  rfl

theorem exec_load_outOfRange {rd : Reg} {src : MsOperand} {s : State} (h : inRange (s.operand src) = false) :
    exec (.load rd src) s = .next (s.emit (.memFault .loadFault (s.operand src))).advance := by
  rw [exec, execLoad_eq, memRead, if_neg (by simp [h])]
  rfl

theorem exec_store_inRange {rs : Reg} {addr : Word} {s : State} (h : inRange addr = true) :
    exec (.store rs addr) s =
      .next (((s.setWord (memIndex addr) (s.getReg rs)).touch (memIndex addr)).advance) := by
  rw [exec, execStore_eq, memWrite, if_pos h]

theorem exec_store_outOfRange {rs : Reg} {addr : Word} {s : State} (h : inRange addr = false) :
    exec (.store rs addr) s = .next (s.emit (.memFault .storeFault addr)).advance := by
  rw [exec, execStore_eq, memWrite, if_neg (by simp [h])]

/-! ## What an instruction can do -/

/-- `Executes s i t`: instruction `i` takes `s` to `t`, one case for each way an instruction can end. -/
inductive Executes (s : State) : Instr → State → Prop where
  | nop : Executes s .nop s.advance
  | mov (rd : Reg) (v : Word) : Executes s (.mov rd v) (s.setReg rd v).advance
  | loadIn (rd : Reg) (src : MsOperand) (h : inRange (s.operand src) = true) :
      Executes s (.load rd src)
        ((s.touch (memIndex (s.operand src))).setReg rd (s.mem.readWord (memIndex (s.operand src)))).advance
  | loadOut (rd : Reg) (src : MsOperand) (h : inRange (s.operand src) = false) :
      Executes s (.load rd src) (s.emit (.memFault .loadFault (s.operand src))).advance
  | storeIn (rs : Reg) (addr : Word) (h : inRange addr = true) :
      Executes s (.store rs addr) ((s.setWord (memIndex addr) (s.getReg rs)).touch (memIndex addr)).advance
  | storeOut (rs : Reg) (addr : Word) (h : inRange addr = false) :
      Executes s (.store rs addr) (s.emit (.memFault .storeFault addr)).advance
  | add (rd rs : Reg) : Executes s (.add rd rs) (s.aluStep .add rd rs)
  | sub (rd rs : Reg) : Executes s (.sub rd rs) (s.aluStep .sub rd rs)
  | and (rd rs : Reg) : Executes s (.and rd rs) (s.aluStep .and rd rs)
  | or (rd rs : Reg) : Executes s (.or rd rs) (s.aluStep .or rd rs)
  | cmp (rl : Reg) (src : MsOperand) :
      Executes s (.cmp rl src) (s.setEqual (aluEq (s.getReg rl) (s.operand src))).advance
  | jeqTaken (target : Word) (h : s.flags.equal = true) : Executes s (.jeq target) (s.setPc target)
  | jeqPassed (target : Word) (h : s.flags.equal = false) : Executes s (.jeq target) s.advance
  | jmp (target : Word) : Executes s (.jmp target) (s.setPc target)
  | hlt : Executes s .hlt s
  | out (rs : Reg) :
      Executes s (.out rs) ((s.printLine (.word (s.getReg rs))).emit (.syscallOut (s.getReg rs))).advance
  | illegal13 : Executes s .illegal13 s.raiseIllegal
  | illegal14 : Executes s .illegal14 s.raiseIllegal
  | illegal15 : Executes s .illegal15 s.raiseIllegal

/-- Every next state of `exec` is one of the cases of `Executes`. -/
theorem Executes.of_exec {i : Instr} {s t : State} (h : exec i s = .next t) : Executes s i t := by
  cases i
  case load rd src =>
    cases hr : inRange (s.operand src) with
    | true => rw [exec_load_inRange hr] at h; cases h; exact .loadIn rd src hr
    | false => rw [exec_load_outOfRange hr] at h; cases h; exact .loadOut rd src hr
  case store rs addr =>
    cases hr : inRange addr with
    | true => rw [exec_store_inRange hr] at h; cases h; exact .storeIn rs addr hr
    | false => rw [exec_store_outOfRange hr] at h; cases h; exact .storeOut rs addr hr
  case jeq target =>
    cases h
    cases he : s.flags.equal with
    | true => exact .jeqTaken target he
    | false => exact .jeqPassed target he
  all_goals cases h; constructor

/-! ## What an input event can do -/

/-- `Applies s i t`: the input event `i` takes `s` to `t`, one case for each way an input can end (R140 to R150). -/
inductive Applies (s : State) : Input → State → Prop where
  | ignored (i : Input) (h : ignores s.fsm i = true) : Applies s i s
  | counted (h : s.fsm = .idle ∨ s.fsm = .halted) : Applies s .tick s.count
  | stopped (hf : s.fsm = .running) (hs : s.stopped = true) : Applies s .tick s.count.halt
  | overran (p : List InstrWord) (hf : s.fsm = .running) (hp : s.prog = some p) (hs : s.stopped = false)
      (hpc : p.length ≤ s.pc.toNat) : Applies s .tick s.count.softHalt.halt
  | ran {t : State} (p : List InstrWord) (hf : s.fsm = .running) (hp : s.prog = some p)
      (hs : s.stopped = false) (hpc : s.pc.toNat < p.length)
      (he : exec (decode p[s.pc.toNat]) (s.count.fetch p[s.pc.toNat]) = .next t) : Applies s .tick t
  | powerOn (hf : s.fsm = .off) : Applies s .powerOn (State.poweredOn s.draws s.inputs)
  | bootDone (hf : s.fsm = .booting) : Applies s .bootDone { s with fsm := .idle }
  | powerOff (hf : s.fsm ≠ .off) : Applies s .powerOff (State.poweredOff s.draws s.inputs)
  | load (program : List InstrWord) (seeds : List (Word × Word)) (remarks banner : List String)
      (hb : s.fsm.booted = true) (hl : program.length ≤ Config.progMax.val) :
      Applies s (.load program seeds remarks banner) (s.loadProgram program seeds remarks banner)
  | format (hb : s.fsm.booted = true) : Applies s .format s.formatted
  | setPeriod (p : Nat) (hf : s.fsm ≠ .off) (hp : p ∈ Config.clockPeriods) :
      Applies s (.setPeriod p) { s with period := p }
  | hostLog (text : String) (hf : s.fsm ≠ .off) : Applies s (.hostLog text) (s.emit (.host text))

/-! ### Inputs that are ignored (R141, R145 to R149) -/

theorem ignores_tick_iff {f : Fsm} : ignores f .tick = true ↔ f.counts = false := by
  cases f <;> decide

theorem ignores_powerOn_iff {f : Fsm} : ignores f .powerOn = true ↔ f ≠ .off := by
  cases f <;> decide

theorem ignores_bootDone {f : Fsm} (h : f ≠ .booting) : ignores f .bootDone = true := by
  cases f <;> trivial

theorem ignores_load {f : Fsm} (h : f.booted = false) (program : List InstrWord)
    (seeds : List (Word × Word)) (remarks banner : List String) :
    ignores f (.load program seeds remarks banner) = true := by
  cases f <;> trivial

theorem ignores_format {f : Fsm} (h : f.booted = false) : ignores f .format = true := by
  cases f <;> trivial

/-! ### Inversion of a step -/

theorem Applies.of_tick {s t : State} (h : tick s = .next t) : Applies s .tick t := by
  by_cases hf : s.fsm = .running
  · rcases tick_running_cases s hf with
      ⟨_, e⟩ | ⟨p, hp, ⟨hs, e⟩ | ⟨hs, hpc, e⟩ | ⟨hs, hpc, e⟩⟩ <;> rw [e] at h
    · cases h
    · cases h; exact .stopped hf hs
    · cases h; exact .overran p hf hp hs hpc
    · exact .ran p hf hp hs hpc h
  · rw [tick_not_running s hf] at h
    cases h
    cases hc : s.fsm with
    | off => exact .ignored .tick (ignores_tick_iff.mpr (by rw [hc]; rfl))
    | booting => exact .ignored .tick (ignores_tick_iff.mpr (by rw [hc]; rfl))
    | idle => exact .counted (.inl hc)
    | running => exact absurd hc hf
    | halted => exact .counted (.inr hc)

/-- Every next state of an input event is one of the cases of `Applies`. -/
theorem Applies.of_applyInput {i : Input} {s t : State} (h : applyInput i s = .next t) : Applies s i t := by
  cases i with
  | tick => exact .of_tick h
  | powerOn =>
    simp only [applyInput, Machine.powerOn] at h
    split at h <;> cases h
    next hf => exact .powerOn hf
    next hf => exact .ignored _ (ignores_powerOn_iff.mpr hf)
  | bootDone =>
    simp only [applyInput, Machine.bootDone] at h
    split at h <;> cases h
    next hf => exact .bootDone hf
    next hf => exact .ignored _ (ignores_bootDone hf)
  | powerOff =>
    simp only [applyInput, Machine.powerOff] at h
    split at h <;> cases h
    next hf => exact .ignored _ (by rw [hf]; rfl)
    next hf => exact .powerOff hf
  | load program seeds remarks banner =>
    simp only [applyInput] at h
    rcases loadCommand_cases program seeds remarks banner s with ⟨hb, e⟩ | ⟨hb, hl, e⟩ | ⟨_, _, e⟩ <;>
      rw [e] at h <;> cases h
    · exact .ignored _ (ignores_load hb program seeds remarks banner)
    · exact .load program seeds remarks banner hb hl
  | format =>
    simp only [applyInput, formatCommand] at h
    split at h <;> cases h
    next hb => exact .format hb
    next hb => exact .ignored _ (ignores_format (by simpa using hb))
  | setPeriod p =>
    simp only [applyInput] at h
    rcases setPeriod_cases p s with ⟨hf, e⟩ | ⟨hf, hp, e⟩ | ⟨_, _, e⟩ <;> rw [e] at h <;> cases h
    · exact .ignored _ (by rw [hf]; rfl)
    · exact .setPeriod p hf hp
  | hostLog text =>
    simp only [applyInput, Machine.hostLog] at h
    split at h <;> cases h
    next hf => exact .ignored _ (by rw [hf]; rfl)
    next hf => exact .hostLog text hf

/-- Every step is one of the cases of `Applies`, on the state without the input it takes. -/
theorem Applies.of_step {s t : State} (h : step s = .next t) : Applies s.takeInput s.nextInput t :=
  .of_applyInput h

end Sys2Proof.Machine
end

section
/-! The frame of every instruction, component by component (spec/10_state.md R22 to R39): O28 to O35. -/

namespace Sys2Proof.Machine

theorem sameRegsBut_setReg (s : State) (r : Reg) (v : Word) : SameRegsBut r s (s.setReg r v) :=
  fun _ hk => s.getReg_setReg_other v hk

/-- Settles O28, by the cases of `Executes` and, for the soft halt, of the engine step. -/
theorem pcAfterEachInstruction : Obligations.PcAfterEachInstruction := by
  refine ⟨fun i s t h => ?_, fun s p hp hl => ?_⟩
  · cases Executes.of_exec h
    case jeqTaken target he => exact (if_pos he).symm
    case jeqPassed target he => exact (if_neg (by simp [he])).symm
    all_goals rfl
  · rcases engineStep_cases s with ⟨hn, _⟩ | ⟨q, hq, ⟨_, e⟩ | ⟨hlt, _⟩⟩
    · cases hn.symm.trans hp
    · exact ⟨_, e, rfl⟩
    · cases hq.symm.trans hp
      omega

/-- Settles O29, by the cases of `Executes`: where a register is written, it is by `setReg` on the first operand. -/
theorem registerWritersAndTheirRegister : Obligations.RegisterWritersAndTheirRegister := by
  intro i s t h
  cases Executes.of_exec h
  case mov rd v => exact sameRegsBut_setReg s rd v
  case add rd rs => exact sameRegsBut_setReg s rd _
  case sub rd rs => exact sameRegsBut_setReg s rd _
  case and rd rs => exact sameRegsBut_setReg s rd _
  case or rd rs => exact sameRegsBut_setReg s rd _
  case loadIn rd src hr => exact ⟨sameRegsBut_setReg s rd _, fun ho => by cases hr.symm.trans ho⟩
  case loadOut rd src hr => exact ⟨fun _ _ => rfl, fun _ _ => rfl⟩
  all_goals exact fun _ => rfl

/-- Settles O30, by the cases of `Executes`. -/
theorem onlyCmpWritesFlags : Obligations.OnlyCmpWritesFlags := by
  intro i s t h
  cases Executes.of_exec h
  case cmp rl src => exact ⟨rfl, fun hne => absurd rfl (hne rl src)⟩
  all_goals exact ⟨rfl, fun _ => rfl⟩

/-- Settles O31, by the cases of `Executes`. -/
theorem instructionsLeaveDriverState : Obligations.InstructionsLeaveDriverState := by
  intro i s t h
  cases Executes.of_exec h <;> exact ⟨⟨rfl, rfl, rfl, rfl, rfl, rfl, rfl⟩, rfl⟩

/-- Settles O32, by the cases of `Executes`: LOAD and STORE each in and out of range. -/
theorem lastAddrOnlyByInRangeAccess : Obligations.LastAddrOnlyByInRangeAccess := by
  intro i s t h
  cases Executes.of_exec h
  case loadIn rd src hr => simp [hr]
  case loadOut rd src hr => simp [hr]
  case storeIn rs addr hr => simp [hr]
  case storeOut rs addr hr => simp [hr]
  all_goals rfl

/-- Settles O35, by the cases of `Executes`: the illegal words raise `err`, and the others keep it. -/
theorem errSetOnlyByIllegalWord : Obligations.ErrSetOnlyByIllegalWord := by
  intro i s t h
  cases Executes.of_exec h
  case illegal13 => simp
  case illegal14 => simp
  case illegal15 => simp
  all_goals simp [State.aluStep]

/-- Settles O41: a `pc` below a length of at most `2^32 - 1` is not the last 32-bit value. -/
theorem pcIncrementNeverWraps : Obligations.PcIncrementNeverWraps := by
  intro s p _ hl hpc
  rw [State.advance_pc, BitVec.toNat_add]
  exact Nat.mod_eq_of_lt (by simp; omega)

end Sys2Proof.Machine
end

section
/-! The invariant `MachineInv` and the driver's counters (spec/40_step_engine.md R140 to R150): O42, O47, O49, O53,
O57, O58. The invariant is kept case by case of `Applies`; the one long case is an instruction that ran, which
goes through the frames of all instructions. -/

namespace Sys2Proof.Machine

/-! ## The gauge -/

/-- Every draw lies in the gauge's range (R35). -/
theorem drawTemp_range (n : Nat) :
    Config.tempMin ≤ Config.drawTemp n ∧ Config.drawTemp n ≤ Config.tempMax := by
  have := (Config.tempDraw n).isLt
  simp only [Config.drawTemp, Config.tempMin, Config.tempMax]
  omega

/-! ## The kernel log's bound (R128) -/

theorem emit_logBound (s : State) (e : LogEvent) : (s.emit e).klog.length ≤ Config.logCap :=
  lastEntries_length_le _ _

theorem exec_logBound {i : Instr} {s t : State} (h : exec i s = .next t)
    (hs : s.klog.length ≤ Config.logCap) : t.klog.length ≤ Config.logCap := by
  cases Executes.of_exec h
  case loadOut => exact emit_logBound s _
  case storeOut => exact emit_logBound s _
  case out => exact emit_logBound _ _
  case illegal13 => exact emit_logBound _ _
  case illegal14 => exact emit_logBound _ _
  case illegal15 => exact emit_logBound _ _
  all_goals exact hs

theorem seedWrite_logBound (s : State) (seed : Word × Word) (hs : s.klog.length ≤ Config.logCap) :
    (seedWrite s seed).klog.length ≤ Config.logCap := by
  rcases seedWrite_cases s seed with ⟨_, e⟩ | ⟨_, e⟩ <;> rw [e]
  · exact hs
  · exact emit_logBound s _

theorem foldl_logBound {α : Type} {f : State → α → State}
    (hf : ∀ s a, s.klog.length ≤ Config.logCap → (f s a).klog.length ≤ Config.logCap) (l : List α)
    {s : State} (hs : s.klog.length ≤ Config.logCap) : (l.foldl f s).klog.length ≤ Config.logCap :=
  List.foldlRecOn l f (motive := fun t => t.klog.length ≤ Config.logCap) hs fun t ht a _ => hf t a ht

theorem loadProgram_logBound (s : State) (program : List InstrWord) (seeds : List (Word × Word))
    (remarks banner : List String) (hs : s.klog.length ≤ Config.logCap) :
    (s.loadProgram program seeds remarks banner).klog.length ≤ Config.logCap := by
  have hseeds : (seeds.foldl seedWrite (s.install program)).clearLast.klog.length ≤ Config.logCap :=
    foldl_logBound seedWrite_logBound seeds (s := s.install program) hs
  rw [State.loadProgram, loaderLines_frame]
  exact foldl_logBound (f := fun t l => t.emit (.host l)) (fun t _ _ => emit_logBound t _) remarks hseeds

/-! ## Memory in canonical form (R62) -/

theorem exec_memWf {i : Instr} {s t : State} (h : exec i s = .next t) (hs : s.mem.wf = true) :
    t.mem.wf = true := by
  cases Executes.of_exec h
  case storeIn rs addr _ => exact Memory.writeWord_wf (memIndex addr) (s.getReg rs) hs
  all_goals exact hs

/-! ## LOAD as one update -/

/-- A LOAD resets the machine state, installs its program and enters RUNNING; besides these it changes memory, the
log and the console alone (R263). -/
theorem loadProgram_frame (s : State) (program : List InstrWord) (seeds : List (Word × Word))
    (remarks banner : List String) :
    s.loadProgram program seeds remarks banner =
      { s.clearMachine with
        prog := some program
        fsm := .running
        mem := (s.loadProgram program seeds remarks banner).mem
        klog := (s.loadProgram program seeds remarks banner).klog
        console := (s.loadProgram program seeds remarks banner).console } := by
  rw [State.loadProgram, loaderLines_frame, seeds_frame]
  rfl

/-! ## The invariant, operation by operation -/

theorem isHltWord_nopWord : isHltWord nopWord = false := by decide

theorem isIllegalWord_nopWord : isIllegalWord nopWord = false := by decide

theorem poweredOn_machineInv (draws : Nat) (inputs : List Input) :
    MachineInv (State.poweredOn draws inputs) where
  memWf := rfl
  logBound := Nat.zero_le _
  tempRange := drawTemp_range draws
  periodMember := List.mem_cons_self
  zeroClear := rfl
  progIffRunning := by simp [State.poweredOn]
  progBound := by simp [State.poweredOn]
  stoppedInside := by simp [State.poweredOn]
  errIffIllegal := isIllegalWord_nopWord.symm
  offAlone := by simp [State.poweredOn]

theorem poweredOff_machineInv (draws : Nat) (inputs : List Input) :
    MachineInv (State.poweredOff draws inputs) where
  memWf := rfl
  logBound := Nat.zero_le _
  tempRange := by simp [State.poweredOff, Config.tempMin, Config.tempMax]
  periodMember := List.mem_cons_self
  zeroClear := rfl
  progIffRunning := by simp [State.poweredOff]
  progBound := by simp [State.poweredOff]
  stoppedInside := by simp [State.poweredOff]
  errIffIllegal := isIllegalWord_nopWord.symm
  offAlone := fun _ => rfl

namespace MachineInv

variable {s : State}

/-- Without RUNNING there is no program (R142). -/
theorem prog_eq_none (h : MachineInv s) (hf : s.fsm ≠ .running) : s.prog = none := by
  simpa [hf] using h.progIffRunning

theorem takeInput (h : MachineInv s) : MachineInv s.takeInput where
  __ := h
  offAlone hf := congrArg State.takeInput (h.offAlone hf)

theorem count (h : MachineInv s) (hf : s.fsm ≠ .off) : MachineInv s.count where
  __ := h
  tempRange := drawTemp_range s.draws
  offAlone ho := absurd ho hf

theorem emit (h : MachineInv s) (hf : s.fsm ≠ .off) (e : LogEvent) : MachineInv (s.emit e) where
  __ := h
  logBound := emit_logBound s e
  offAlone ho := absurd ho hf

theorem halt (h : MachineInv s) : MachineInv s.halt where
  __ := h
  progIffRunning := by simp
  progBound := by simp
  stoppedInside := by simp
  offAlone := by simp

theorem bootDone (h : MachineInv s) (hf : s.fsm = .booting) : MachineInv { s with fsm := .idle } where
  __ := h
  progIffRunning := by simp [h.prog_eq_none (by simp [hf])]
  offAlone := by simp

theorem setPeriod (h : MachineInv s) (hf : s.fsm ≠ .off) {p : Nat} (hp : p ∈ Config.clockPeriods) :
    MachineInv { s with period := p } where
  __ := h
  periodMember := hp
  offAlone ho := absurd ho hf

theorem formatted (h : MachineInv s) : MachineInv s.formatted where
  memWf := formatted_wf s
  logBound := h.logBound
  tempRange := h.tempRange
  periodMember := h.periodMember
  zeroClear := rfl
  progIffRunning := by simp
  progBound := by simp
  stoppedInside := by simp
  errIffIllegal := isIllegalWord_nopWord.symm
  offAlone := by simp

theorem loadProgram (h : MachineInv s) (program : List InstrWord) (seeds : List (Word × Word))
    (remarks banner : List String) (hl : program.length ≤ Config.progMax.val) :
    MachineInv (s.loadProgram program seeds remarks banner) := by
  have hmem := loadProgram_wf s program seeds remarks banner h.memWf
  have hlog := loadProgram_logBound s program seeds remarks banner h.logBound
  rw [loadProgram_frame]
  exact {
    memWf := hmem
    logBound := hlog
    tempRange := h.tempRange
    periodMember := h.periodMember
    zeroClear := rfl
    progIffRunning := by simp
    progBound := fun p hp => by cases hp; exact hl
    stoppedInside := fun p _ hs => by simp [State.stopped, isHltWord_nopWord] at hs
    errIffIllegal := isIllegalWord_nopWord.symm
    offAlone := fun ho => by cases ho }

end MachineInv

/-- HLT and the illegal words leave `pc` where it is (R27). -/
theorem exec_pc_of_halting {w : InstrWord} {s t : State} (h : exec (decode w) s = .next t)
    (hw : isHltWord w = true ∨ isIllegalWord w = true) : t.pc = s.pc := by
  rw [pcAfterEachInstruction.1 _ _ _ h]
  rw [isHltWord_iff_decode, isIllegalWord_iff_decode] at hw
  rcases hw with e | e | e | e <;> rw [e]

/-- The instruction at `pc` keeps the invariant, when it runs as the driver runs it: fetched in RUNNING with the
engine not stopped. `err` was 0, so it is 1 afterwards exactly when the fetched word is illegal; and a stopped
engine has just fetched HLT or an illegal word, which leave `pc` inside the program (R238). -/
theorem MachineInv.exec_fetch {s t : State} (h : MachineInv s) {p : List InstrWord}
    (hf : s.fsm = .running) (hp : s.prog = some p) (hs : s.stopped = false) {w : InstrWord}
    (hpc : s.pc.toNat < p.length) (he : exec (decode w) (s.fetch w) = .next t) : MachineInv t := by
  obtain ⟨⟨_, htemp, hperiod, hfsm, hprog, _, _⟩, hir⟩ := instructionsLeaveDriverState _ _ _ he
  replace hir : t.ir = w := hir
  replace hfsm : t.fsm = .running := hfsm.trans hf
  replace hprog : t.prog = some p := hprog.trans hp
  have herr0 : s.err = false := (Bool.or_eq_false_iff.mp hs).2
  have herr : t.err = isIllegalWord w := by
    rw [Bool.eq_iff_iff, errSetOnlyByIllegalWord _ _ _ he, isIllegalWord_iff_decode]
    simp [herr0]
  exact {
    memWf := exec_memWf he h.memWf
    logBound := exec_logBound he (emit_logBound _ _)
    tempRange := by rw [htemp]; exact h.tempRange
    periodMember := by rw [hperiod]; exact h.periodMember
    zeroClear := (onlyCmpWritesFlags _ _ _ he).1.trans h.zeroClear
    progIffRunning := by simp [hprog, hfsm]
    progBound := fun q hq => h.progBound q (hp.trans (hprog.symm.trans hq))
    stoppedInside := fun q hq hst => by
      rw [State.stopped, hir, herr, Bool.or_eq_true] at hst
      rw [exec_pc_of_halting he hst]
      cases hprog.symm.trans hq
      exact hpc
    errIffIllegal := by rw [herr, hir]
    offAlone := fun ho => by cases hfsm.symm.trans ho }

/-- Every case of an input event keeps the invariant. -/
theorem MachineInv.applies {s t : State} {i : Input} (h : MachineInv s) (ha : Applies s i t) :
    MachineInv t := by
  cases ha with
  | ignored => exact h
  | counted hf => exact h.count (by rcases hf with e | e <;> simp [e])
  | stopped hf => exact (h.count (by simp [hf])).halt
  | overran p hf => exact ((h.count (by simp [hf])).emit (by simp [hf]) _).halt
  | ran p hf hp hs hpc he => exact (h.count (by simp [hf])).exec_fetch hf hp hs hpc he
  | powerOn => exact poweredOn_machineInv _ _
  | bootDone hf => exact h.bootDone hf
  | powerOff => exact poweredOff_machineInv _ _
  | load program seeds remarks banner _ hl => exact h.loadProgram program seeds remarks banner hl
  | format => exact h.formatted
  | setPeriod p hf hp => exact h.setPeriod hf hp
  | hostLog text hf => exact h.emit hf _

/-- Settles O58. -/
theorem stepKeepsInvariant : Obligations.StepKeepsInvariant :=
  fun _ _ h hstep => h.takeInput.applies (Applies.of_step hstep)

/-- Settles O57: reset is a power-on. -/
theorem resetSatisfiesInvariant : Obligations.ResetSatisfiesInvariant := poweredOn_machineInv 0 []

/-! ## The driver's counter, the program and power-on -/

/-- What each case of an input event other than POWER_OFF does to `cycle`. -/
theorem Applies.cycle_eq {s t : State} {i : Input} (ha : Applies s i t) (hi : i ≠ .powerOff) :
    t.cycle =
      if i = .tick ∧ s.fsm.counts = true then s.cycle + 1#64
      else if i = .powerOn ∧ s.fsm = .off then 0#64
      else s.cycle := by
  cases ha with
  | ignored _ hig =>
    cases i with
    | tick => simp [ignores_tick_iff.mp hig]
    | powerOn => simp [ignores_powerOn_iff.mp hig]
    | _ => rfl
  | counted hf => rcases hf with e | e <;> simp [e, Fsm.counts]
  | stopped hf => simp [hf, Fsm.counts]
  | overran p hf => simp [hf, Fsm.counts]
  | ran p hf hp hs hpc he =>
    obtain ⟨⟨hcycle, _⟩, _⟩ := instructionsLeaveDriverState _ _ _ he
    simp [hcycle, hf, Fsm.counts]
  | powerOn hf => simp [hf, State.poweredOn]
  | powerOff => exact absurd rfl hi
  | load => rw [loadProgram_frame]; simp
  | bootDone => simp
  | format => simp
  | setPeriod => simp
  | hostLog => simp

/-- Settles O42. -/
theorem cycleCountsTicks : Obligations.CycleCountsTicks := by
  intro s
  refine ⟨fun t h hi => (Applies.of_step h).cycle_eq hi, fun hi hf => ?_,
    Config.drawTemp s.draws, (drawTemp_range _).1, (drawTemp_range _).2, rfl⟩
  have hr : s.takeInput.fsm ≠ .running := by rcases hf with e | e <;> simp [e]
  have hc : s.takeInput.fsm.counts = true := by rcases hf with e | e <;> simp [e, Fsm.counts]
  rw [step_eq, hi, applyInput, tick_not_running _ hr, if_pos hc]

/-- What each case of an input event does to the program. -/
theorem Applies.prog_cases {s t : State} {i : Input} (ha : Applies s i t) :
    t.prog = s.prog ∨
      (∃ p seeds remarks banner, i = .load p seeds remarks banner ∧ t.prog = some p) ∨
      (t.prog = none ∧ ((i = .tick ∧ t.fsm = .halted) ∨ i = .format ∨ i = .powerOff ∨ i = .powerOn)) := by
  cases ha with
  | stopped => exact .inr (.inr ⟨rfl, .inl ⟨rfl, rfl⟩⟩)
  | overran => exact .inr (.inr ⟨rfl, .inl ⟨rfl, rfl⟩⟩)
  | ran p hf hp hs hpc he =>
    obtain ⟨⟨_, _, _, _, hprog, _⟩, _⟩ := instructionsLeaveDriverState _ _ _ he
    exact .inl hprog
  | powerOn => exact .inr (.inr ⟨rfl, .inr (.inr (.inr rfl))⟩)
  | powerOff => exact .inr (.inr ⟨rfl, .inr (.inr (.inl rfl))⟩)
  | load program seeds remarks banner =>
    exact .inr (.inl ⟨program, seeds, remarks, banner, rfl, by rw [loadProgram_frame]⟩)
  | format => exact .inr (.inr ⟨rfl, .inr (.inl rfl)⟩)
  | ignored => exact .inl rfl
  | counted => exact .inl rfl
  | bootDone => exact .inl rfl
  | setPeriod => exact .inl rfl
  | hostLog => exact .inl rfl

/-- Settles O47. -/
theorem loadedProgramIsImmutable : Obligations.LoadedProgramIsImmutable :=
  fun _ _ h => (Applies.of_step h).prog_cases

theorem poweredOn_powerOnValues (draws : Nat) (inputs : List Input) :
    PowerOnValues (State.poweredOn draws inputs) :=
  ⟨State.poweredOn_getReg draws inputs, rfl, rfl, rfl, rfl, rfl, rfl, drawTemp_range draws, rfl, rfl,
    Memory.readWord_nil, rfl, rfl, rfl, rfl⟩

/-- Settles O49: reset is a power-on. -/
theorem resetHasPowerOnValues : Obligations.ResetHasPowerOnValues := poweredOn_powerOnValues 0 []

/-- Settles O53. -/
theorem tooLongProgramIsRefused : Obligations.TooLongProgramIsRefused := by
  intro s program seeds remarks banner hf hi hl
  have hb : s.takeInput.fsm.booted = true := by rcases hf with e | e | e <;> simp [e, Fsm.booted]
  rw [step_eq, hi, applyInput, loadCommand, if_pos hb, if_neg (Nat.not_le.mpr hl)]

end Sys2Proof.Machine
end

section
/-! Noninterference of the outputs (O60; spec/10_state.md R35, R36, R41). Every operation of a step commutes with
`State.eraseOutputs` up to `State.eraseOutputs`, so a step reads nothing of what is erased. -/

namespace Sys2Proof.Machine

/-! ## Outcomes that agree once the outputs are erased -/

/-- The same kind of outcome, with the same reason or with next states that agree but for their outputs. -/
def StepsAlike (o o' : Host.Outcome State Fault Refusal) : Prop :=
  thenNext o State.eraseOutputs = thenNext o' State.eraseOutputs

theorem StepsAlike.next {s s' : State} (h : s.eraseOutputs = s'.eraseOutputs) :
    StepsAlike (.next s) (.next s') := congrArg Host.Outcome.next h

theorem StepsAlike.symm {o o' : Host.Outcome State Fault Refusal} (h : StepsAlike o o') : StepsAlike o' o :=
  Eq.symm h

theorem StepsAlike.trans {o o' o'' : Host.Outcome State Fault Refusal} (h : StepsAlike o o')
    (h' : StepsAlike o' o'') : StepsAlike o o'' := Eq.trans h h'

/-- What `StepsAlike` says of each kind of outcome. -/
theorem StepsAlike.outcomes {o o' : Host.Outcome State Fault Refusal} (h : StepsAlike o o') :
    (∀ t, o = .next t → ∃ t', o' = .next t' ∧ t.eraseOutputs = t'.eraseOutputs) ∧
      (∀ r, o = .fault r → o' = .fault r) ∧ ∀ r, o = .refused r → o' = .refused r := by
  cases o <;> cases o' <;> simp_all [StepsAlike, thenNext]

theorem StepsAlike.ite {c : Prop} [Decidable c] {a b a' b' : Host.Outcome State Fault Refusal}
    (ha : StepsAlike a a') (hb : StepsAlike b b') :
    StepsAlike (if c then a else b) (if c then a' else b') := by
  split
  · exact ha
  · exact hb

theorem StepsAlike.dite {c : Prop} [Decidable c] {a a' : c → Host.Outcome State Fault Refusal}
    {b b' : ¬c → Host.Outcome State Fault Refusal} (ha : ∀ h, StepsAlike (a h) (a' h))
    (hb : ∀ h, StepsAlike (b h) (b' h)) :
    StepsAlike (if h : c then a h else b h) (if h : c then a' h else b' h) := by
  split
  · exact ha _
  · exact hb _

/-- A function that agrees with itself on erased states agrees on all states that agree but for their outputs. -/
theorem StepsAlike.of_erase {f : State → Host.Outcome State Fault Refusal}
    (hf : ∀ s, StepsAlike (f s) (f s.eraseOutputs)) {s s' : State}
    (h : s.eraseOutputs = s'.eraseOutputs) : StepsAlike (f s) (f s') := by
  refine (hf s).trans ?_
  rw [h]
  exact (hf s').symm

/-- A fold of an operation that reads no output reads none. -/
theorem foldl_eraseOutputs {α : Type} {f : State → α → State}
    (hf : ∀ s a, (f s a).eraseOutputs = (f s.eraseOutputs a).eraseOutputs) :
    ∀ (l : List α) (s : State), (l.foldl f s).eraseOutputs = (l.foldl f s.eraseOutputs).eraseOutputs
  | [], _ => rfl
  | a :: l, s => by
    rw [List.foldl_cons, List.foldl_cons, foldl_eraseOutputs hf l (f s a), hf s a,
      ← foldl_eraseOutputs hf l (f s.eraseOutputs a)]

/-! ## What erasing keeps -/

@[simp] theorem State.eraseOutputs_prog (s : State) : s.eraseOutputs.prog = s.prog := rfl
@[simp] theorem State.eraseOutputs_fsm (s : State) : s.eraseOutputs.fsm = s.fsm := rfl
@[simp] theorem State.eraseOutputs_operand (s : State) (src : MsOperand) :
    s.eraseOutputs.operand src = s.operand src := by cases src <;> rfl

/-! ## Instructions and the engine step -/

theorem exec_stepsAlike_erase (i : Instr) (s : State) : StepsAlike (exec i s) (exec i s.eraseOutputs) := by
  cases i
  case load rd src =>
    have ho := s.eraseOutputs_operand src
    cases hr : inRange (s.operand src) with
    | true => rw [exec_load_inRange hr, exec_load_inRange (ho ▸ hr), ho]; rfl
    | false => rw [exec_load_outOfRange hr, exec_load_outOfRange (ho ▸ hr), ho]; rfl
  case store rs addr =>
    cases hr : inRange addr with
    | true => rw [exec_store_inRange hr, exec_store_inRange hr]; rfl
    | false => rw [exec_store_outOfRange hr, exec_store_outOfRange hr]; rfl
  case cmp rl src => cases src <;> rfl
  case jeq target =>
    refine StepsAlike.next ?_
    cases he : s.flags.equal <;> simp [State.eraseOutputs, he, State.advance, State.setPc]
  all_goals rfl

theorem engineStepOn_stepsAlike_erase (p : List InstrWord) (s : State) :
    StepsAlike (engineStepOn p s) (engineStepOn p s.eraseOutputs) :=
  .dite (fun _ => .of_erase (exec_stepsAlike_erase _) rfl) fun _ => rfl

theorem engineStep_stepsAlike_erase (s : State) : StepsAlike (engineStep s) (engineStep s.eraseOutputs) := by
  simp only [engineStep, State.eraseOutputs_prog]
  cases s.prog with
  | none => rfl
  | some p => exact engineStepOn_stepsAlike_erase p s

/-! ## The driver -/

theorem StepsAlike.thenHalt {o o' : Host.Outcome State Fault Refusal} (h : StepsAlike o o') :
    StepsAlike (thenNext o State.halt) (thenNext o' State.halt) := by
  have comm : ∀ o, thenNext (thenNext o State.halt) State.eraseOutputs =
      thenNext (thenNext o State.eraseOutputs) State.halt := fun o => by cases o <;> rfl
  rw [StepsAlike, comm, comm]
  exact congrArg (thenNext · State.halt) h

theorem runTick_stepsAlike_erase (p : List InstrWord) (s : State) :
    StepsAlike (runTick p s) (runTick p s.eraseOutputs) :=
  .ite rfl (.ite (engineStep_stepsAlike_erase s).thenHalt (engineStep_stepsAlike_erase s))

theorem tick_stepsAlike_erase (s : State) : StepsAlike (tick s) (tick s.eraseOutputs) := by
  by_cases hf : s.fsm = .running
  · simp only [tick, State.eraseOutputs_fsm, State.eraseOutputs_prog, hf]
    cases s.prog with
    | none => rfl
    | some p => exact StepsAlike.of_erase (runTick_stepsAlike_erase p) rfl
  · rw [tick_not_running s hf, tick_not_running s.eraseOutputs hf, State.eraseOutputs_fsm]
    split <;> rfl

/-! ## The host's commands -/

theorem seedWrite_eraseOutputs (s : State) (seed : Word × Word) :
    (seedWrite s seed).eraseOutputs = (seedWrite s.eraseOutputs seed).eraseOutputs := by
  simp only [seedWrite]
  split <;> rfl

theorem loadProgram_eraseOutputs (s : State) (program : List InstrWord) (seeds : List (Word × Word))
    (remarks banner : List String) :
    (s.loadProgram program seeds remarks banner).eraseOutputs =
      (s.eraseOutputs.loadProgram program seeds remarks banner).eraseOutputs := by
  have lines : ∀ t : State, (t.clearLast.loaderLines remarks banner).enterRunning.eraseOutputs =
      t.eraseOutputs.clearLast.enterRunning.eraseOutputs := fun t => by rw [loaderLines_frame]; rfl
  rw [State.loadProgram, State.loadProgram, lines, lines,
    foldl_eraseOutputs seedWrite_eraseOutputs seeds (s.install program),
    foldl_eraseOutputs seedWrite_eraseOutputs seeds (s.eraseOutputs.install program)]
  rfl

theorem applyInput_stepsAlike_erase (i : Input) (s : State) :
    StepsAlike (applyInput i s) (applyInput i s.eraseOutputs) := by
  cases i with
  | tick => exact tick_stepsAlike_erase s
  | powerOn => exact .ite rfl rfl
  | bootDone => exact .ite rfl rfl
  | powerOff => exact .ite rfl rfl
  | load program seeds remarks banner =>
    exact .ite (.ite (.next (loadProgram_eraseOutputs s program seeds remarks banner)) rfl) rfl
  | format => exact .ite rfl rfl
  | setPeriod p => exact .ite rfl (.ite rfl rfl)
  | hostLog text => exact .ite rfl rfl

theorem step_stepsAlike_erase (s : State) : StepsAlike (step s) (step s.eraseOutputs) :=
  applyInput_stepsAlike_erase s.nextInput s.takeInput

/-- Settles O60. -/
theorem outputsHaveNoEffect : Obligations.OutputsHaveNoEffect :=
  fun _ _ h => (StepsAlike.of_erase step_stepsAlike_erase h).outcomes

end Sys2Proof.Machine
end

section
/-! The data memory (spec/20_memory.md R62 to R75): O7, O8, O9, O33. What a word access does is said through the four
cells of the word. -/

namespace Sys2Proof.Machine

/-! ## The bounds check (R63) -/

theorem inRange_iff_toInt {a : Word} : inRange a = true ↔ 0 ≤ a.toInt ∧ a.toInt < 1024 := by
  rw [inRange, Bool.and_eq_true, decide_eq_true_eq, decide_eq_true_eq, Config.memWords, Nat.cast_ofNat]

/-- The signed bounds check is the unsigned one: a negative reading is a pattern of at least `2^31`. -/
theorem inRange_iff_toNat_lt {a : Word} : inRange a = true ↔ a.toNat < 1024 := by
  rw [inRange_iff_toInt, BitVec.toInt_eq_toNat_cond]
  have ha := a.isLt
  split <;> omega

theorem memIndex_toNat {a : Word} (h : inRange a = true) : (memIndex a).toNat = a.toNat := by
  rw [memIndex, BitVec.extractLsb'_toNat, Nat.shiftRight_zero]
  exact Nat.mod_eq_of_lt (inRange_iff_toNat_lt.mp h)

/-- Settles O7. -/
theorem boundsCheckIsUnsignedLess : Obligations.BoundsCheckIsUnsignedLess :=
  fun _ => ⟨inRange_iff_toInt, inRange_iff_toNat_lt, memIndex_toNat⟩

/-! ## A word and its four cells (R69) -/

/-- Appended bits determine both parts. -/
theorem bits_append_inj {v w : Nat} {x x' : BitVec v} {y y' : BitVec w} :
    x ++ y = x' ++ y' ↔ x = x' ∧ y = y' := by
  refine ⟨fun h => ⟨?_, ?_⟩, fun ⟨hx, hy⟩ => by rw [hx, hy]⟩
  · simpa only [BitVec.extractLsb'_append_eq_left] using congrArg (BitVec.extractLsb' w v) h
  · simpa only [BitVec.extractLsb'_append_eq_right] using congrArg (BitVec.extractLsb' 0 w) h

/-- Words of two memories are equal exactly when their four cells are. -/
theorem Memory.readWord_eq_iff {m m' : Memory} {i : MemIndex} :
    m.readWord i = m'.readWord i ↔
      ∀ k, k < 4 → m.readByte (cellOf i + k) = m'.readByte (cellOf i + k) := by
  have cells : m.readWord i = m'.readWord i ↔
      ((m.readByte (cellOf i + 3) = m'.readByte (cellOf i + 3) ∧
        m.readByte (cellOf i + 2) = m'.readByte (cellOf i + 2)) ∧
        m.readByte (cellOf i + 1) = m'.readByte (cellOf i + 1)) ∧ m.readByte (cellOf i) = m'.readByte (cellOf i) :=
    bits_append_inj.trans (and_congr_left' (bits_append_inj.trans (and_congr_left' bits_append_inj)))
  rw [cells]
  constructor
  · rintro ⟨⟨⟨h3, h2⟩, h1⟩, h0⟩ k hk
    interval_cases k <;> assumption
  · exact fun h => ⟨⟨⟨h 3 (by omega), h 2 (by omega)⟩, h 1 (by omega)⟩, h 0 (by omega)⟩

/-- Every address below `4096` is a cell of a word. -/
theorem exists_cellOf_add {a : Nat} (ha : a < 4096) : ∃ i k, k < 4 ∧ a = cellOf i + k := by
  refine ⟨BitVec.ofNat 10 (a / 4), a % 4, by omega, ?_⟩
  rw [cellOf, BitVec.toNat_ofNat]
  omega

/-! ## Writing a word (R65) -/

/-- Outside the word's four cells a write of a word changes nothing. -/
theorem Memory.readByte_writeWord_other {m : Memory} {i : MemIndex} (v : Word) {b : Nat} (hm : m.wf = true)
    (hb : b < cellOf i ∨ cellOf i + 4 ≤ b) : (m.writeWord i v).readByte b = m.readByte b := by
  rw [Memory.readByte_writeWord i v b hm, if_neg (by omega), if_neg (by omega), if_neg (by omega),
    if_neg (by omega)]

theorem Memory.readWord_writeWord_same {m : Memory} (i : MemIndex) (v : Word) (hm : m.wf = true) :
    (m.writeWord i v).readWord i = v := by
  simp [Memory.readWord, Memory.readByte_writeWord i v _ hm, word_of_bytes]

theorem Memory.readWord_writeWord_other {m : Memory} {i j : MemIndex} (v : Word) (hm : m.wf = true)
    (hj : j ≠ i) : (m.writeWord i v).readWord j = m.readWord j := by
  have hne : j.toNat ≠ i.toNat := fun h => hj (BitVec.eq_of_toNat_eq h)
  refine Memory.readWord_eq_iff.mpr fun k hk => Memory.readByte_writeWord_other v hm ?_
  simp only [cellOf]
  omega

/-- Settles O8. -/
theorem wordReadAfterWrite : Obligations.WordReadAfterWrite := by
  intro m i j v hm
  split
  case isTrue h => rw [h, Memory.readWord_writeWord_same i v hm]
  case isFalse h => exact Memory.readWord_writeWord_other v hm h

/-! ## The canonical form is canonical (R62, log entry 1) -/

theorem Memory.readByte_cons_self (k : Nat) (v : Byte) (m : Memory) :
    Memory.readByte ((k, v) :: m) k = v := if_pos rfl

theorem Memory.readByte_cons_other {k a : Nat} (v : Byte) (m : Memory) (h : k ≠ a) :
    Memory.readByte ((k, v) :: m) a = m.readByte a := if_neg h

/-- A canonical memory's first cell is not 0, so a memory that lists only later cells reads otherwise there. -/
theorem Memory.readByte_head_ne {low k : Nat} {v : Byte} {m m' : Memory}
    (hm : Memory.wfFrom low ((k, v) :: m) = true) (hm' : Memory.wfFrom (k + 1) m' = true) :
    Memory.readByte ((k, v) :: m) k ≠ m'.readByte k := by
  obtain ⟨_, _, hv, _⟩ := Memory.wfFrom_cons.mp hm
  rw [Memory.readByte_cons_self, Memory.readByte_below hm' k.lt_succ_self]
  exact hv

/-- Two canonical memories that read alike read alike without their first cells, which stand at the same `k`. -/
theorem Memory.readByte_tail_eq {k : Nat} {v v' : Byte} {m m' : Memory}
    (hm : Memory.wfFrom (k + 1) m = true) (hm' : Memory.wfFrom (k + 1) m' = true)
    (h : ∀ a, Memory.readByte ((k, v) :: m) a = Memory.readByte ((k, v') :: m') a) (a : Nat) :
    m.readByte a = m'.readByte a := by
  by_cases hk : k = a
  · rw [Memory.readByte_below hm (by omega), Memory.readByte_below hm' (by omega)]
  · simpa only [Memory.readByte_cons_other _ _ hk] using h a

/-- Canonical memories that read alike at every byte are equal. Both list the same first cell, since the one whose
first cell came earlier would read otherwise there. -/
theorem Memory.eq_of_readByte_eq {low low' : Nat} : ∀ {m m' : Memory}, Memory.wfFrom low m = true →
    Memory.wfFrom low' m' = true → (∀ a, m.readByte a = m'.readByte a) → m = m'
  | [], [], _, _, _ => rfl
  | (k, v) :: m, [], hm, _, h => absurd (h k) (Memory.readByte_head_ne hm rfl)
  | [], (k, v) :: m', _, hm', h => absurd (h k).symm (Memory.readByte_head_ne hm' rfl)
  | (k, v) :: m, (k', v') :: m', hm, hm', h => by
    obtain ⟨_, hk, hv, htail⟩ := Memory.wfFrom_cons.mp hm
    obtain ⟨_, hk', hv', htail'⟩ := Memory.wfFrom_cons.mp hm'
    rcases Nat.lt_trichotomy k k' with hlt | rfl | hlt
    · exact absurd (h k) (Memory.readByte_head_ne hm (Memory.wfFrom_cons.mpr ⟨hlt, hk', hv', htail'⟩))
    · have hhead : v = v' := by simpa only [Memory.readByte_cons_self] using h k
      rw [hhead, Memory.eq_of_readByte_eq htail htail' (Memory.readByte_tail_eq htail htail' h)]
    · exact absurd (h k').symm (Memory.readByte_head_ne hm' (Memory.wfFrom_cons.mpr ⟨hlt, hk, hv, htail⟩))

/-- Settles O9: every cell below `4096` is a cell of a word, and every later one reads 0. -/
theorem equalWordsEqualMemory : Obligations.EqualWordsEqualMemory := by
  intro m m' hm hm' h
  refine Memory.eq_of_readByte_eq hm hm' fun a => ?_
  by_cases ha : a < 4096
  · obtain ⟨i, k, hk, rfl⟩ := exists_cellOf_add ha
    exact Memory.readWord_eq_iff.mp (h i) k hk
  · rw [Memory.readByte_above (by omega) hm, Memory.readByte_above (by omega) hm']

/-! ## The memory frame of every instruction (R73) -/

/-- Settles O33, by the cases of `Executes`: only an in-range STORE writes memory. -/
theorem onlyStoreWritesMemory : Obligations.OnlyStoreWritesMemory := by
  intro i s t hs h
  cases Executes.of_exec h
  case storeIn rs addr hr =>
    exact ⟨fun _ _ hb => Memory.readByte_writeWord_other (s.getReg rs) hs hb, fun ho => by cases hr.symm.trans ho⟩
  case storeOut rs addr hr => exact ⟨fun hi => (by cases hr.symm.trans hi), fun _ _ => rfl⟩
  all_goals exact fun _ => rfl

end Sys2Proof.Machine
end

section
/-! The decoder and the encoder (spec/30_encoding.md R91 to R102, R108, R109): O1, O3, O4, O5. A word is read as
the row of its mnemonic with its two fields `ra` and `b`, or as an illegal word. -/

namespace Sys2Proof.Machine

/-! ## Operand forms (R95, R96) -/

theorem regBits_raField (w : InstrWord) : regBits (raField w) = w.extractLsb' 32 3 := rfl

theorem regOf_bField (w : InstrWord) : regOf (bField w) = (w.extractLsb' 0 3).toFin := by
  rw [regOf, bField, BitVec.extractLsb'_extractLsb'_of_le (by decide)]

theorem regOf_eq_mk {b : Word} (h : b.toNat < 8) : regOf b = ⟨b.toNat, h⟩ := by
  refine Fin.ext ?_
  rw [regOf, BitVec.val_toFin, BitVec.extractLsb'_toNat, Nat.shiftRight_zero]
  exact Nat.mod_eq_of_lt h

theorem regOf_setWidth (rb : BitVec 3) : regOf (rb.setWidth 32) = rb.toFin := regOf_regWord rb.toFin

theorem regWord_regOf_of_high_zero {b : Word} (h : b.extractLsb' 3 29 = 0#29) : regWord (regOf b) = b := by
  refine regWord_regOf b ?_
  have hhigh := congrArg BitVec.toNat h
  rw [BitVec.extractLsb'_toNat, Nat.shiftRight_eq_div_pow] at hhigh
  have hb := b.isLt
  simp only [BitVec.toNat_ofNat] at hhigh
  change b.toNat < 8
  omega

theorem msop_wf (b : Word) : (msop b).wf = true := by
  unfold msop
  split
  next _ => rfl
  next hb => exact decide_eq_true (Nat.le_of_not_lt hb)

@[simp] theorem msopWord_msop (b : Word) : msopWord (msop b) = b := by
  unfold msop
  split
  next hb => exact regWord_regOf b hb
  next _ => rfl

/-- The dual operand convention loses no operand that has an encoding (R97). -/
theorem msop_msopWord {o : MsOperand} (h : o.wf = true) : msop (msopWord o) = o := by
  cases o with
  | reg k =>
    have hk : (regWord k).toNat < Config.nreg := by rw [regWord_toNat]; exact k.isLt
    rw [msopWord, msop, if_pos hk, regOf_regWord]
  | imm v => exact if_neg (Nat.not_lt.mpr (of_decide_eq_true h))

/-! ## The rows of the table (R92, R94) -/

/-- The instruction that a mnemonic's row gives with the fields `ra` and `b` (R92, R102). -/
def Mnemonic.instr (m : Mnemonic) (ra : Reg) (b : Word) : Instr :=
  match m with
  | .nop => .nop
  | .mov => .mov ra b
  | .load => .load ra (msop b)
  | .store => .store ra b
  | .add => .add ra (regOf b)
  | .sub => .sub ra (regOf b)
  | .and => .and ra (regOf b)
  | .or => .or ra (regOf b)
  | .cmp => .cmp ra (msop b)
  | .jeq => .jeq b
  | .jmp => .jmp b
  | .hlt => .hlt
  | .out => .out ra

theorem opcode_cases : ∀ op : BitVec 4,
    (∃ m ∈ allMnemonics, op = m.opcode) ∨ op = 13#4 ∨ op = 14#4 ∨ op = 15#4 := by decide

/-- Every word has the opcode of a row or one of the three illegal ones (R94, R99). -/
theorem opField_cases (w : InstrWord) :
    (∃ m : Mnemonic, opField w = m.opcode) ∨ opField w = 13#4 ∨ opField w = 14#4 ∨ opField w = 15#4 :=
  (opcode_cases (opField w)).imp_left fun ⟨m, _, h⟩ => ⟨m, h⟩

theorem decode_of_opcode {w : InstrWord} {m : Mnemonic} (h : opField w = m.opcode) :
    decode w = m.instr (raField w) (bField w) := by
  cases m <;> (rw [decode, h]; rfl)

theorem decode_of_op13 {w : InstrWord} (h : opField w = 13#4) : decode w = .illegal13 := by
  rw [decode, h]; rfl

theorem decode_of_op14 {w : InstrWord} (h : opField w = 14#4) : decode w = .illegal14 := by
  rw [decode, h]; rfl

theorem decode_of_op15 {w : InstrWord} (h : opField w = 15#4) : decode w = .illegal15 := by
  rw [decode, h]; rfl

theorem decode_packWord (m : Mnemonic) (ra : BitVec 3) (b : Word) :
    decode (packWord m.opcode ra b) = m.instr ra.toFin b := by
  rw [decode_of_opcode (opField_packWord m.opcode ra b), raField_packWord, bField_packWord]

theorem instr_wf (m : Mnemonic) (ra : Reg) (b : Word) : (m.instr ra b).wf = true := by
  cases m
  case load => exact msop_wf b
  case cmp => exact msop_wf b
  all_goals rfl

/-- Settles O4. -/
theorem everyWordDecodesWellFormed : Obligations.EveryWordDecodesWellFormed := by
  intro w
  rcases opField_cases w with ⟨m, h⟩ | h | h | h
  · rw [decode_of_opcode h]; exact instr_wf m _ _
  · rw [decode_of_op13 h]; rfl
  · rw [decode_of_op14 h]; rfl
  · rw [decode_of_op15 h]; rfl

/-- Settles O5, by evaluating the decoder. -/
theorem specWordsDecode : Obligations.SpecWordsDecode := by
  unfold Obligations.SpecWordsDecode
  decide

/-- Settles O1: each encoding is a row's word with the row's operands in its fields, where only the second operand
of the two-register and of the mode-sensitive rows needs reading back. -/
theorem decodeOfEncodeIsIdentity : Obligations.DecodeOfEncodeIsIdentity := by
  intro i hi
  cases i with
  | nop => exact decode_packWord .nop 0 0
  | mov rd imm => exact decode_packWord .mov (regBits rd) imm
  | load rd src =>
    exact (decode_packWord .load (regBits rd) (msopWord src)).trans (congrArg (Instr.load rd) (msop_msopWord hi))
  | store rs addr => exact decode_packWord .store (regBits rs) addr
  | add rd rs =>
    exact (decode_packWord .add (regBits rd) (regWord rs)).trans (congrArg (Instr.add rd) (regOf_regWord rs))
  | sub rd rs =>
    exact (decode_packWord .sub (regBits rd) (regWord rs)).trans (congrArg (Instr.sub rd) (regOf_regWord rs))
  | and rd rs =>
    exact (decode_packWord .and (regBits rd) (regWord rs)).trans (congrArg (Instr.and rd) (regOf_regWord rs))
  | or rd rs =>
    exact (decode_packWord .or (regBits rd) (regWord rs)).trans (congrArg (Instr.or rd) (regOf_regWord rs))
  | cmp rl src =>
    exact (decode_packWord .cmp (regBits rl) (msopWord src)).trans (congrArg (Instr.cmp rl) (msop_msopWord hi))
  | jeq target => exact decode_packWord .jeq 0 target
  | jmp target => exact decode_packWord .jmp 0 target
  | hlt => exact decode_packWord .hlt 0 0
  | out rs => exact decode_packWord .out (regBits rs) 0
  | illegal13 => exact decode_of_op13 (opField_packWord _ _ _)
  | illegal14 => exact decode_of_op14 (opField_packWord _ _ _)
  | illegal15 => exact decode_of_op15 (opField_packWord _ _ _)

/-! ## Bits without a meaning (R98) -/

/-- Words that agree under a mask agree on every field that the mask keeps whole. -/
theorem extractLsb'_eq_of_masked {n start len : Nat} {w w' mask : BitVec n} (h : w &&& mask = w' &&& mask)
    (hm : mask.extractLsb' start len = BitVec.allOnes len) :
    w.extractLsb' start len = w'.extractLsb' start len := by
  have hf := congrArg (BitVec.extractLsb' start len) h
  rwa [BitVec.extractLsb'_and, BitVec.extractLsb'_and, hm, BitVec.and_allOnes, BitVec.and_allOnes] at hf

theorem usedMask_keeps_opField : ∀ op : BitVec 4, (usedMask op).extractLsb' 60 4 = BitVec.allOnes 4 := by decide

section
variable {w w' mask : InstrWord} (h : w &&& mask = w' &&& mask)
include h

theorem raField_eq_of_masked (hm : mask.extractLsb' 32 3 = BitVec.allOnes 3) : raField w = raField w' :=
  congrArg BitVec.toFin (extractLsb'_eq_of_masked h hm)

theorem bField_eq_of_masked (hm : mask.extractLsb' 0 32 = BitVec.allOnes 32) : bField w = bField w' :=
  extractLsb'_eq_of_masked h hm

theorem regOf_bField_eq_of_masked (hm : mask.extractLsb' 0 3 = BitVec.allOnes 3) :
    regOf (bField w) = regOf (bField w') := by
  rw [regOf_bField, regOf_bField, extractLsb'_eq_of_masked h hm]

end

/-- A row's instruction depends only on the bits of the row's mask. -/
theorem instr_eq_of_masked {m : Mnemonic} {w w' : InstrWord}
    (h : w &&& usedMask m.opcode = w' &&& usedMask m.opcode) :
    m.instr (raField w) (bField w) = m.instr (raField w') (bField w') := by
  cases m
  case nop | hlt => rfl
  case jeq | jmp => simp only [Mnemonic.instr, bField_eq_of_masked h (by decide)]
  case out => simp only [Mnemonic.instr, raField_eq_of_masked h (by decide)]
  case mov | store | load | cmp =>
    simp only [Mnemonic.instr, raField_eq_of_masked h (by decide), bField_eq_of_masked h (by decide)]
  case add | sub | and | or =>
    simp only [Mnemonic.instr, raField_eq_of_masked h (by decide), regOf_bField_eq_of_masked h (by decide)]

/-- Settles O3: the mask keeps the opcode, so both words are read by one row. -/
theorem decoderIgnoresUnusedBits : Obligations.DecoderIgnoresUnusedBits := by
  intro w w' h
  have hop : opField w = opField w' := extractLsb'_eq_of_masked h (usedMask_keeps_opField (opField w))
  rcases opField_cases w with ⟨m, hm⟩ | hi | hi | hi
  · rw [hm] at h
    rw [decode_of_opcode hm, decode_of_opcode (hop.symm.trans hm), instr_eq_of_masked h]
  · rw [decode_of_op13 hi, decode_of_op13 (hop.symm.trans hi)]
  · rw [decode_of_op14 hi, decode_of_op14 (hop.symm.trans hi)]
  · rw [decode_of_op15 hi, decode_of_op15 (hop.symm.trans hi)]

/-! ## Canonical words (R109) -/

/-- A word with its ignored bits 0 is put together from its three fields. -/
theorem packWord_fields {w : InstrWord} (h : w.extractLsb' 35 25 = 0#25) :
    packWord (opField w) (regBits (raField w)) (bField w) = w := by
  rw [packWord, regBits_raField, opField, bField, ← h,
    BitVec.extractLsb'_append_extractLsb'_eq_extractLsb' (by decide),
    BitVec.extractLsb'_append_extractLsb'_eq_extractLsb' (by decide),
    BitVec.extractLsb'_append_extractLsb'_eq_extractLsb' (by decide)]
  exact BitVec.extractLsb'_eq_self

/-- The fields that a row of R92 gives no meaning are 0. -/
def OperandShape.UnusedZero : OperandShape → Reg → Word → Prop
  | .none, ra, b => ra = 0 ∧ b = 0#32
  | .regWord, _, _ => True
  | .regMode, _, _ => True
  | .regReg, _, b => b.extractLsb' 3 29 = 0#29
  | .target, ra, _ => ra = 0
  | .reg, _, b => b = 0#32

theorem canonicalWord_of_opcode {m : Mnemonic} {w : InstrWord} (h : opField w = m.opcode) :
    canonicalWord w = true ↔ w.extractLsb' 35 25 = 0#25 ∧ m.shape.UnusedZero (raField w) (bField w) := by
  cases m <;> simp [canonicalWord, h, Mnemonic.opcode, Mnemonic.shape, OperandShape.UnusedZero, and_assoc]

theorem exists_opcode_of_canonical {w : InstrWord} (h : canonicalWord w = true) :
    ∃ m : Mnemonic, opField w = m.opcode := by
  simp only [canonicalWord, Bool.and_eq_true, decide_eq_true_eq] at h
  obtain ⟨⟨⟨⟨_, hop⟩, _⟩, _⟩, _⟩ := h
  rcases opField_cases w with hm | hi | hi | hi
  · exact hm
  all_goals rw [hi] at hop; exact absurd hop (by decide)

theorem encode_instr {m : Mnemonic} {ra : Reg} {b : Word} (h : m.shape.UnusedZero ra b) :
    encode (m.instr ra b) = packWord m.opcode (regBits ra) b := by
  cases m
  case nop | hlt => obtain ⟨rfl, rfl⟩ := h; rfl
  case mov | store => rfl
  case load | cmp => simp only [Mnemonic.instr, encode, msopWord_msop]; rfl
  case add | sub | and | or => simp only [Mnemonic.instr, encode, regWord_regOf_of_high_zero h]; rfl
  case jeq | jmp | out => cases h; rfl

theorem encode_decode_of_canonical {w : InstrWord} (h : canonicalWord w = true) : encode (decode w) = w := by
  obtain ⟨m, hm⟩ := exists_opcode_of_canonical h
  obtain ⟨hign, hzero⟩ := (canonicalWord_of_opcode hm).mp h
  rw [decode_of_opcode hm, encode_instr hzero, ← hm, packWord_fields hign]

end Sys2Proof.Machine
end

section
/-! The assembler's encoding of one instruction (spec/30_encoding.md R105, R106, R108, R109): O2, O6. An accepted
operand list and the fields it is packed into determine each other. -/

namespace Sys2Proof.Machine

/-! ## One operand (R106): accepted exactly as the value that its field reads back -/

theorem ofInt_eq_iff_toNat {n : Nat} {z : Int} {x : BitVec n} (h0 : 0 ≤ z) (h1 : z < 2 ^ n) :
    BitVec.ofInt n z = x ↔ (x.toNat : Int) = z := by
  lift z to Nat using h0
  have hz : z < 2 ^ n := by exact_mod_cast h1
  rw [BitVec.ofInt_natCast, ← BitVec.toNat_inj, BitVec.toNat_ofNat, Nat.mod_eq_of_lt hz, Nat.cast_inj, eq_comm]

theorem reg_range (x : BitVec 3) : 0 ≤ (x.toNat : Int) ∧ (x.toNat : Int) ≤ 7 := by
  have hx := x.isLt
  omega

theorem word_range (x : Word) : -2 ^ 31 ≤ x.toInt ∧ x.toInt ≤ 2 ^ 31 - 1 := by
  have hlo := x.le_two_mul_toInt
  have hhi := x.two_mul_toInt_lt
  omega

theorem target_range (x : Word) : 0 ≤ (x.toNat : Int) ∧ (x.toNat : Int) ≤ 2 ^ 32 - 1 := by
  have hx := x.isLt
  omega

theorem mode_range {x : Word} (h : x.toNat < 2 ^ 31) : 0 ≤ (x.toNat : Int) ∧ (x.toNat : Int) ≤ 2 ^ 31 - 1 := by
  omega

theorem regOperand_eq_ok_iff {z : Int} {x : BitVec 3} : regOperand z = .ok x ↔ (x.toNat : Int) = z := by
  rw [regOperand]
  split
  next hz => rw [Except.ok.injEq, ofInt_eq_iff_toNat (by omega) (by omega)]
  next hz => exact ⟨nofun, fun hx => absurd (hx ▸ reg_range x) hz⟩

theorem wordOperand_eq_ok_iff {z : Int} {x : Word} : wordOperand z = .ok x ↔ x.toInt = z := by
  rw [wordOperand]
  split
  next hz =>
    rw [Except.ok.injEq]
    refine ⟨fun hx => ?_, fun hx => hx ▸ BitVec.ofInt_toInt⟩
    rw [← hx, BitVec.toInt_ofInt_eq_self (by decide) (by omega) (by omega)]
  next hz => exact ⟨nofun, fun hx => absurd (hx ▸ word_range x) (by omega)⟩

theorem modeOperand_eq_ok_iff {z : Int} {x : Word} :
    modeOperand z = .ok x ↔ (x.toNat : Int) = z ∧ x.toNat < 2 ^ 31 := by
  rw [modeOperand]
  split
  next hz => exact ⟨nofun, fun ⟨hx, _⟩ => by omega⟩
  next hz =>
    split
    next hle =>
      rw [Except.ok.injEq, ofInt_eq_iff_toNat (by omega) (by omega)]
      omega
    next hgt => exact ⟨nofun, fun ⟨hx, hlt⟩ => by omega⟩

theorem targetOperand_eq_ok_iff {z : Int} {x : Word} : targetOperand z = .ok x ↔ (x.toNat : Int) = z := by
  rw [targetOperand]
  split
  next hz => rw [Except.ok.injEq, ofInt_eq_iff_toNat (by omega) (by omega)]
  next hz => exact ⟨nofun, fun hx => absurd (hx ▸ target_range x) (by omega)⟩

/-! ## One instruction (R105, R108) -/

/-- `sh.Packs operands ra b`: the operands of shape `sh` stand in the fields `ra` and `b`, each at a value that the
assembler accepts (R92, R106). -/
inductive OperandShape.Packs : OperandShape → List Int → BitVec 3 → Word → Prop where
  | none : Packs .none [] 0 0
  | regWord (ra : BitVec 3) (b : Word) : Packs .regWord [ra.toNat, b.toInt] ra b
  | regMode (ra : BitVec 3) (b : Word) (h : b.toNat < 2 ^ 31) : Packs .regMode [ra.toNat, b.toNat] ra b
  | regReg (ra rb : BitVec 3) : Packs .regReg [ra.toNat, rb.toNat] ra (rb.setWidth 32)
  | target (b : Word) : Packs .target [b.toNat] 0 b
  | reg (ra : BitVec 3) : Packs .reg [ra.toNat] ra 0

theorem bind_eq_ok_iff {α β : Type} {x : Except AsmError α} {f : α → Except AsmError β} {c : β} :
    (x >>= f) = .ok c ↔ ∃ a, x = .ok a ∧ f a = .ok c := by
  cases x with
  | error e => exact ⟨nofun, nofun⟩
  | ok a => exact ⟨fun h => ⟨a, rfl, h⟩, fun ⟨_, ha, h⟩ => by cases ha; exact h⟩

theorem packs_of_assemble {m : Mnemonic} {operands : List Int} {w : InstrWord} (h : assemble m operands = .ok w) :
    ∃ ra b, m.shape.Packs operands ra b ∧ packWord m.opcode ra b = w := by
  unfold assemble at h
  split at h
  case h_1 hs => cases h; exact ⟨_, _, hs ▸ .none, rfl⟩
  case h_2 r v hs =>
    obtain ⟨ra, hr, b, hv, hw⟩ := by simpa only [bind_eq_ok_iff] using h
    cases hw
    obtain rfl := regOperand_eq_ok_iff.mp hr
    obtain rfl := wordOperand_eq_ok_iff.mp hv
    exact ⟨_, _, hs ▸ .regWord ra b, rfl⟩
  case h_3 r v hs =>
    obtain ⟨ra, hr, b, hv, hw⟩ := by simpa only [bind_eq_ok_iff] using h
    cases hw
    obtain rfl := regOperand_eq_ok_iff.mp hr
    obtain ⟨rfl, hb⟩ := modeOperand_eq_ok_iff.mp hv
    exact ⟨_, _, hs ▸ .regMode ra b hb, rfl⟩
  case h_4 r v hs =>
    obtain ⟨ra, hr, rb, hv, hw⟩ := by simpa only [bind_eq_ok_iff] using h
    cases hw
    obtain rfl := regOperand_eq_ok_iff.mp hr
    obtain rfl := regOperand_eq_ok_iff.mp hv
    exact ⟨_, _, hs ▸ .regReg ra rb, rfl⟩
  case h_5 t hs =>
    obtain ⟨b, ht, hw⟩ := bind_eq_ok_iff.mp h
    cases hw
    obtain rfl := targetOperand_eq_ok_iff.mp ht
    exact ⟨_, _, hs ▸ .target b, rfl⟩
  case h_6 r hs =>
    obtain ⟨ra, hr, hw⟩ := bind_eq_ok_iff.mp h
    cases hw
    obtain rfl := regOperand_eq_ok_iff.mp hr
    exact ⟨_, _, hs ▸ .reg ra, rfl⟩
  case h_7 => cases h

theorem assemble_of_packs {m : Mnemonic} {operands : List Int} {ra : BitVec 3} {b : Word}
    (h : m.shape.Packs operands ra b) : assemble m operands = .ok (packWord m.opcode ra b) := by
  have hreg (x : BitVec 3) : regOperand x.toNat = .ok x := regOperand_eq_ok_iff.mpr rfl
  generalize hs : m.shape = sh at h
  cases h with
  | none => simp only [assemble, hs]
  | regWord ra b => simp only [assemble, hs, hreg, wordOperand_eq_ok_iff.mpr rfl]; rfl
  | regMode ra b hb => simp only [assemble, hs, hreg, modeOperand_eq_ok_iff.mpr ⟨rfl, hb⟩]; rfl
  | regReg ra rb => simp only [assemble, hs, hreg]; rfl
  | target b => simp only [assemble, hs, targetOperand_eq_ok_iff.mpr rfl]; rfl
  | reg ra => simp only [assemble, hs, hreg]; rfl

/-! ## Encoding and decoding are inverse (R109) -/

/-- The row's instruction has the packed operands as its source form (R111). -/
theorem sourceOf_instr {m : Mnemonic} {operands : List Int} {ra : BitVec 3} {b : Word}
    (h : m.shape.Packs operands ra b) : sourceOf (m.instr ra.toFin b) = some ⟨m, operands⟩ := by
  cases m <;> cases h
  case load.regMode | cmp.regMode => simp only [Mnemonic.instr, sourceOf, msopWord_msop]; rfl
  case add.regReg | sub.regReg | and.regReg | or.regReg =>
    simp only [Mnemonic.instr, sourceOf, regOf_setWidth]; rfl
  all_goals rfl

/-- Settles O2: the fields of an accepted operand list are read back by the row's instruction, and a canonical word
is put together again from its fields. -/
theorem encoderAndDecoderAreInverse : Obligations.EncoderAndDecoderAreInverse := by
  refine ⟨fun m operands w h => ⟨?_, everyWordDecodesWellFormed w⟩, fun _ => encode_decode_of_canonical⟩
  obtain ⟨ra, b, hp, rfl⟩ := packs_of_assemble h
  rw [decode_packWord, sourceOf_instr hp]

/-! ## The accepted operand lists (R105, R106) -/

theorem exists_toNat_eq {n : Nat} {z : Int} (h0 : 0 ≤ z) (h1 : z < 2 ^ n) : ∃ x : BitVec n, (x.toNat : Int) = z :=
  ⟨BitVec.ofInt n z, (ofInt_eq_iff_toNat h0 h1).mp rfl⟩

section
variable {r v : Int}

theorem exists_packs_regWord (h : (0 ≤ r ∧ r ≤ 7) ∧ -2 ^ 31 ≤ v ∧ v ≤ 2 ^ 31 - 1) :
    ∃ ra b, OperandShape.Packs .regWord [r, v] ra b := by
  obtain ⟨⟨hr0, hr7⟩, hv0, hv1⟩ := h
  obtain ⟨ra, rfl⟩ := exists_toNat_eq (n := 3) hr0 (by omega)
  have hb : (BitVec.ofInt 32 v).toInt = v := BitVec.toInt_ofInt_eq_self (by decide) (by omega) (by omega)
  exact ⟨ra, BitVec.ofInt 32 v, by simpa only [hb] using OperandShape.Packs.regWord ra (BitVec.ofInt 32 v)⟩

theorem exists_packs_regMode (h : (0 ≤ r ∧ r ≤ 7) ∧ 0 ≤ v ∧ v ≤ 2 ^ 31 - 1) :
    ∃ ra b, OperandShape.Packs .regMode [r, v] ra b := by
  obtain ⟨⟨hr0, hr7⟩, hv0, hv1⟩ := h
  obtain ⟨ra, rfl⟩ := exists_toNat_eq (n := 3) hr0 (by omega)
  obtain ⟨b, rfl⟩ := exists_toNat_eq (n := 32) hv0 (by omega)
  exact ⟨ra, b, .regMode ra b (by omega)⟩

theorem exists_packs_regReg (h : (0 ≤ r ∧ r ≤ 7) ∧ 0 ≤ v ∧ v ≤ 7) :
    ∃ ra b, OperandShape.Packs .regReg [r, v] ra b := by
  obtain ⟨⟨hr0, hr7⟩, hv0, hv1⟩ := h
  obtain ⟨ra, rfl⟩ := exists_toNat_eq (n := 3) hr0 (by omega)
  obtain ⟨rb, rfl⟩ := exists_toNat_eq (n := 3) hv0 (by omega)
  exact ⟨ra, _, .regReg ra rb⟩

theorem exists_packs_target (h : 0 ≤ v ∧ v ≤ 2 ^ 32 - 1) : ∃ ra b, OperandShape.Packs .target [v] ra b := by
  obtain ⟨hv0, hv1⟩ := h
  obtain ⟨b, rfl⟩ := exists_toNat_eq (n := 32) hv0 (by omega)
  exact ⟨0, b, .target b⟩

theorem exists_packs_reg (h : 0 ≤ r ∧ r ≤ 7) : ∃ ra b, OperandShape.Packs .reg [r] ra b := by
  obtain ⟨hr0, hr7⟩ := h
  obtain ⟨ra, rfl⟩ := exists_toNat_eq (n := 3) hr0 (by omega)
  exact ⟨ra, 0, .reg ra⟩

end

theorem accepted_of_packs {m : Mnemonic} {operands : List Int} {ra : BitVec 3} {b : Word}
    (h : m.shape.Packs operands ra b) : AcceptedOperands m operands := by
  cases m <;> cases h
  case nop.none | hlt.none => trivial
  case mov.regWord | store.regWord => exact ⟨reg_range ra, word_range b⟩
  case load.regMode hb | cmp.regMode hb => exact ⟨reg_range ra, mode_range hb⟩
  case add.regReg rb | sub.regReg rb | and.regReg rb | or.regReg rb => exact ⟨reg_range ra, reg_range rb⟩
  case jeq.target | jmp.target => exact target_range b
  case out.reg => exact reg_range ra

theorem exists_packs_of_accepted {m : Mnemonic} {operands : List Int} (h : AcceptedOperands m operands) :
    ∃ ra b, m.shape.Packs operands ra b := by
  unfold AcceptedOperands at h
  split at h
  case h_1 | h_2 => exact ⟨0, 0, .none⟩
  case h_3 | h_4 => exact exists_packs_regWord h
  case h_5 | h_6 => exact exists_packs_regMode h
  case h_7 | h_8 | h_9 | h_10 => exact exists_packs_regReg h
  case h_11 | h_12 => exact exists_packs_target h
  case h_13 => exact exists_packs_reg h
  case h_14 => exact h.elim

/-- Settles O6. -/
theorem assemblerAcceptsExactlyTheRanges : Obligations.AssemblerAcceptsExactlyTheRanges := by
  intro m operands
  constructor
  · rintro ⟨w, h⟩
    obtain ⟨_, _, hp, _⟩ := packs_of_assemble h
    exact accepted_of_packs hp
  · intro h
    obtain ⟨_, _, hp⟩ := exists_packs_of_accepted h
    exact ⟨_, assemble_of_packs hp⟩

end Sys2Proof.Machine
end

section
/-! The mode-sensitive operand and the illegal words (spec/30_encoding.md R95, R96, R99): O10, O26. -/

namespace Sys2Proof.Machine

/-- Settles O10, by the two forms that `msop` gives. -/
theorem dualOperandConvention : Obligations.DualOperandConvention := by
  intro s b
  by_cases hb : b.toNat < 8
  · rw [msop, if_pos hb, dif_pos hb, State.operand, regOf_eq_mk hb]
  · rw [msop, if_neg hb, dif_neg hb, State.operand]

/-- Settles O26: all three illegal words are `State.raiseIllegal`. -/
theorem illegalWordsSetErr : Obligations.IllegalWordsSetErr := by
  intro i s hi
  have he : exec i s = .next s.raiseIllegal := by rcases hi with rfl | rfl | rfl <;> rfl
  exact ⟨s.raiseIllegal, he, rfl, rfl, rfl, rfl, fun _ => rfl, rfl, fun _ => rfl, rfl, rfl, rfl, rfl, rfl, rfl, rfl,
    rfl, rfl⟩

end Sys2Proof.Machine
end

section
/-! Every instruction completes and logs what spec/40_step_engine.md R128 says, and the engine step repeated on the
same `pc` (R122, R127): O27, O34, O36, O38, O39. -/

namespace Sys2Proof.Machine

/-- Settles O27: no arm of the dispatch faults or refuses. -/
theorem everyInstructionCompletes : Obligations.EveryInstructionCompletes := by
  intro i s
  cases i <;> exact ⟨_, rfl⟩

/-- Settles O34, by the cases of `Executes`: LOAD and STORE each in and out of range. -/
theorem eventsOfEachInstruction : Obligations.EventsOfEachInstruction := by
  intro i s t h
  cases Executes.of_exec h
  case loadIn rd src hr => exact ⟨by simp [hr], (List.append_nil _).symm⟩
  case loadOut rd src hr => exact ⟨by simp [hr, Logged], (List.append_nil _).symm⟩
  case storeIn rs addr hr => exact ⟨by simp [hr], (List.append_nil _).symm⟩
  case storeOut rs addr hr => exact ⟨by simp [hr, Logged], (List.append_nil _).symm⟩
  case out rs => exact ⟨rfl, rfl⟩
  all_goals exact ⟨rfl, (List.append_nil _).symm⟩

/-- Settles O36: the fetch is one record update of `ir` and the log. -/
theorem fetchWritesIrAndLogs : Obligations.FetchWritesIrAndLogs := fun _ _ => rfl

/-! ## The engine step by what stands at `pc` -/

/-- With the word `w` at `pc` the engine step fetches and runs `w` (R125). -/
theorem engineStep_of_fetch {s : State} {p : List InstrWord} {w : InstrWord} (hp : s.prog = some p)
    (hw : p[s.pc.toNat]? = some w) : engineStep s = exec (decode w) (s.fetch w) := by
  obtain ⟨hpc, rfl⟩ := List.getElem?_eq_some_iff.mp hw
  rcases engineStep_cases s with ⟨hn, _⟩ | ⟨q, hq, ⟨hl, _⟩ | ⟨_, e⟩⟩
  · cases hn.symm.trans hp
  · cases hq.symm.trans hp
    omega
  · cases hq.symm.trans hp
    exact e

/-- With `pc` at or past the program's end the engine step is a soft halt (R122). -/
theorem engineStep_of_overrun {s : State} {p : List InstrWord} (hp : s.prog = some p)
    (hl : p.length ≤ s.pc.toNat) : engineStep s = .next s.softHalt := by
  rcases engineStep_cases s with ⟨hn, _⟩ | ⟨q, hq, ⟨_, e⟩ | ⟨hpc, _⟩⟩
  · cases hn.symm.trans hp
  · exact e
  · cases hq.symm.trans hp
    omega

theorem exec_of_isHltWord {w : InstrWord} (hw : isHltWord w = true) (s : State) :
    exec (decode w) s = .next s := by
  rw [(isHltWord_iff_decode w).mp hw]
  rfl

theorem exec_of_isIllegalWord {w : InstrWord} (hw : isIllegalWord w = true) (s : State) :
    exec (decode w) s = .next s.raiseIllegal := by
  rcases (isIllegalWord_iff_decode w).mp hw with e | e | e <;> rw [e] <;> rfl

/-! ## Engine steps that only log -/

/-- `s` with the events `es` appended to its log at once, which keeps its last 50 (R128). -/
def State.emitAll (s : State) (es : List LogEvent) : State :=
  { s with klog := lastEntries Config.logCap (s.klog ++ es) }

theorem State.emit_eq_emitAll (s : State) (e : LogEvent) : s.emit e = s.emitAll [e] := rfl

/-- Trimming once at the end is trimming after each append. -/
theorem State.emitAll_emitAll (s : State) (es es' : List LogEvent) :
    (s.emitAll es).emitAll es' = s.emitAll (es ++ es') := by
  simp only [State.emitAll, lastEntries_append, List.append_assoc]

/-- Where the engine step only appends `events`, whatever the log holds already, `n` steps append them `n` times. -/
theorem engineRun_emitAll {s : State} {events : List LogEvent}
    (hstep : ∀ es, engineStep (s.emitAll es) = .next ((s.emitAll es).emitAll events)) (n : Nat)
    (es : List LogEvent) :
    engineRun n (s.emitAll es) = .next (s.emitAll (es ++ (List.replicate n events).flatten)) := by
  induction n generalizing es with
  | zero => simp [engineRun]
  | succ n ih =>
    rw [engineRun, hstep, State.emitAll_emitAll]
    simp only [ih, List.replicate_succ, List.flatten_cons, List.append_assoc]

/-- The same for a run from `s`, when its first step enters the state `u` in which every later one only logs. -/
theorem engineRun_succ_emitAll {s u : State} {events : List LogEvent}
    (hfirst : engineStep s = .next (u.emitAll events))
    (hstep : ∀ es, engineStep (u.emitAll es) = .next ((u.emitAll es).emitAll events)) (n : Nat) :
    engineRun (n + 1) s = .next (u.emitAll (List.replicate (n + 1) events).flatten) := by
  rw [engineRun, hfirst]
  exact engineRun_emitAll hstep n events

/-- Settles O38: a soft halt changes the log alone, so the next step soft-halts again. -/
theorem softHaltRecursOnEveryCall : Obligations.SoftHaltRecursOnEveryCall := by
  intro s p n hp hl
  rw [engineRun_succ_emitAll (u := s) (events := [.softHalt s.pc]) (engineStep_of_overrun hp hl)
    (fun es => engineStep_of_overrun (s := s.emitAll es) hp hl), List.flatten_replicate_singleton]
  rfl

theorem engineStep_of_isHltWord {s : State} {p : List InstrWord} {w : InstrWord} (hp : s.prog = some p)
    (hw : p[s.pc.toNat]? = some w) (hh : isHltWord w = true) :
    engineStep s = .next ({ s with ir := w }.emitAll [.exec s.pc w]) := by
  rw [engineStep_of_fetch hp hw, exec_of_isHltWord hh, State.fetch, State.emit_eq_emitAll]

theorem engineStep_of_isIllegalWord {s : State} {p : List InstrWord} {w : InstrWord} (hp : s.prog = some p)
    (hw : p[s.pc.toNat]? = some w) (hi : isIllegalWord w = true) :
    engineStep s = .next ({ s with ir := w, err := true }.emitAll [.exec s.pc w, .illegalWord s.pc w]) := by
  rw [engineStep_of_fetch hp hw, exec_of_isIllegalWord hi]
  exact congrArg Host.Outcome.next
    ({ s with ir := w, err := true }.emitAll_emitAll [.exec s.pc w] [.illegalWord s.pc w])

/-- Settles O39: after the first step `ir` and `err` hold what the step writes, and `pc` still names the word. -/
theorem haltingWordRepeats : Obligations.HaltingWordRepeats := by
  intro s p w n hp hw
  refine ⟨fun hh => ?_, fun hi => ?_⟩
  · rw [engineRun_succ_emitAll (engineStep_of_isHltWord hp hw hh)
      (fun es => engineStep_of_isHltWord (s := { s with ir := w }.emitAll es) hp hw hh),
      List.flatten_replicate_singleton]
    rfl
  · rw [engineRun_succ_emitAll (engineStep_of_isIllegalWord hp hw hi)
      (fun es => engineStep_of_isIllegalWord (s := { s with ir := w, err := true }.emitAll es) hp hw hi)]
    rfl

end Sys2Proof.Machine
end

section
/-! The steps of the clock driver (spec/40_step_engine.md R140 to R150): O37, O43, O44, O45, O46, O55, O56, O59. -/

namespace Sys2Proof.Machine

/-! ## Ticks in RUNNING (R141) -/

theorem runTick_of_stopped {s : State} (p : List InstrWord) (hs : s.stopped = true) :
    runTick p s = .next s.halt := if_pos hs

theorem runTick_of_overrun {s : State} {p : List InstrWord} (hp : s.prog = some p) (hs : s.stopped = false)
    (hl : p.length ≤ s.pc.toNat) : runTick p s = .next s.softHalt.halt := by
  rw [runTick, if_neg (by simp [hs]), if_pos hl, engineStep_of_overrun hp hl]
  rfl

theorem runTick_of_fetch {s : State} {p : List InstrWord} {w : InstrWord} (hp : s.prog = some p)
    (hs : s.stopped = false) (hw : p[s.pc.toNat]? = some w) :
    runTick p s = exec (decode w) (s.fetch w) := by
  obtain ⟨hpc, _⟩ := List.getElem?_eq_some_iff.mp hw
  rw [runTick, if_neg (by simp [hs]), if_neg (Nat.not_le.mpr hpc), engineStep_of_fetch hp hw]

/-- A step on a TICK in RUNNING: the input taken, the tick counted, then the tick over the loaded program. -/
theorem step_of_tick_running {s : State} {p : List InstrWord} (ht : s.nextInput = .tick)
    (hf : s.fsm = .running) (hp : s.prog = some p) : step s = runTick p s.takeInput.count := by
  simp [step_eq, ht, applyInput, tick, hf, hp]

/-- Settles O37. -/
theorem stepRunsDecodedInstruction : Obligations.StepRunsDecodedInstruction := by
  intro s p w i ht hf hp hs hw hd _
  rw [step_of_tick_running ht hf hp, runTick_of_fetch (s := s.takeInput.count) hp hs hw, hd]

/-- Settles O46: a soft halt logs, and the halting moves `fsm` and `prog`. -/
theorem overrunHaltsOnItsTick : Obligations.OverrunHaltsOnItsTick := by
  intro s p ht hf hp hs hl
  have e : step s = .next s.takeInput.count.softHalt.halt :=
    (step_of_tick_running ht hf hp).trans (runTick_of_overrun (s := s.takeInput.count) hp hs hl)
  exact ⟨_, e, rfl, rfl, rfl, rfl, rfl, rfl, rfl, rfl, rfl, rfl, ⟨rfl, rfl⟩, rfl⟩

/-- With `err` clear before the fetch, the word run decides `err` (R33). -/
theorem exec_fetch_err {w : InstrWord} {s t : State} (hs : s.err = false)
    (h : exec (decode w) (s.fetch w) = .next t) : t.err = isIllegalWord w := by
  rw [Bool.eq_iff_iff, errSetOnlyByIllegalWord _ _ _ h, isIllegalWord_iff_decode]
  simp [hs]

/-- Settles O45, through the frames of all instructions: the first tick leaves `ir` at the word and `err` at its
legality, so it leaves the driver stopped, and a stopped driver halts without a step. -/
theorem haltIsDetectedOneTickLater : Obligations.HaltIsDetectedOneTickLater := by
  intro s p w ht hf hp hs hw hhalt
  obtain ⟨t, he⟩ := everyInstructionCompletes (decode w) (s.takeInput.count.fetch w)
  obtain ⟨⟨_, _, hperiod, hfsm, hprog, _, _⟩, hir⟩ := instructionsLeaveDriverState _ _ _ he
  replace hfsm : t.fsm = .running := hfsm.trans hf
  replace hprog : t.prog = some p := hprog.trans hp
  replace hir : t.ir = w := hir
  have hpc : t.pc = s.pc := exec_pc_of_halting (s := s.takeInput.count.fetch w) he hhalt
  have herr : t.err = isIllegalWord w :=
    exec_fetch_err (s := s.takeInput.count) (Bool.or_eq_false_iff.mp hs).2 he
  have hstopped : t.stopped = true := by rwa [State.stopped, hir, herr, Bool.or_eq_true]
  have hhalted : t.haltedStatus = true := by
    rcases Bool.or_eq_true_iff.mp hstopped with h | h <;> simp [State.haltedStatus, hprog, h]
  have hfirst : step s = .next t := (step_of_tick_running ht hf hp).trans
    ((runTick_of_fetch (s := s.takeInput.count) hp hs hw).trans he)
  refine ⟨t, hfirst, hfsm, hir, hpc, herr, hhalted, hperiod, fun ht' => ?_⟩
  have hsecond : step t = .next t.takeInput.count.halt := (step_of_tick_running ht' hfsm hprog).trans
    (runTick_of_stopped (s := t.takeInput.count) p hstopped)
  exact ⟨_, hsecond, rfl, rfl, rfl, rfl, rfl, rfl, rfl, rfl, rfl, rfl, ⟨rfl, rfl⟩, rfl, rfl⟩

/-! ## The transition table (R140) -/

theorem Fsm.booted_iff {f : Fsm} : f.booted = true ↔ f = .idle ∨ f = .running ∨ f = .halted := by
  cases f <;> decide

theorem Fsm.ne_off_iff {f : Fsm} : f ≠ .off ↔ f = .booting ∨ f = .idle ∨ f = .running ∨ f = .halted := by
  cases f <;> decide

/-- Settles O43, by the cases of `Applies`: each names the row of the table, or a pair that is in no row. -/
theorem fsmFollowsTransitionTable : Obligations.FsmFollowsTransitionTable := by
  intro s t h
  have ha := Applies.of_step h
  rw [← s.takeInput_fsm, ← s.takeInput_ir, ← s.takeInput_err, ← s.takeInput_prog, ← s.takeInput_pc]
  generalize s.takeInput = u, s.nextInput = i at ha ⊢
  cases ha with
  | ignored _ hig =>
    -- in the rows of the table the input is not ignored
    split <;> simp_all [ignores]
  | counted hf => rcases hf with e | e <;> simp [e]
  | stopped hf hs => rcases Bool.or_eq_true_iff.mp hs with e | e <;> simp [hf, e]
  | overran p hf hp hs hl => simp [hf, hp, hl]
  | ran p hf hp hs hpc he =>
    obtain ⟨⟨_, _, _, hfsm, _⟩, _⟩ := instructionsLeaveDriverState _ _ _ he
    obtain ⟨hhlt, herr⟩ := Bool.or_eq_false_iff.mp hs
    simp [hfsm, hf, hp, hhlt, herr, hpc]
  | powerOn hf => simp [hf, State.poweredOn]
  | bootDone hf => simp [hf]
  | powerOff hf => rcases Fsm.ne_off_iff.mp hf with e | e | e | e <;> rw [e] <;> rfl
  | load program seeds remarks banner hb => rcases Fsm.booted_iff.mp hb with e | e | e <;> rw [e] <;> rfl
  | format hb => rcases Fsm.booted_iff.mp hb with e | e | e <;> rw [e] <;> rfl
  | setPeriod => simp
  | hostLog => simp

/-! ## Ignored inputs (R141, R145 to R149) -/

theorem ignores_bootDone_iff {f : Fsm} : ignores f .bootDone = true ↔ f ≠ .booting := by
  cases f <;> decide

theorem ignores_powerOff_iff {f : Fsm} : ignores f .powerOff = true ↔ f = .off := by
  cases f <;> decide

theorem ignores_load_iff {f : Fsm} {program : List InstrWord} {seeds : List (Word × Word)}
    {remarks banner : List String} :
    ignores f (.load program seeds remarks banner) = true ↔ f.booted = false := by
  cases f <;> simp [ignores, Fsm.booted]

theorem ignores_format_iff {f : Fsm} : ignores f .format = true ↔ f.booted = false := by
  cases f <;> decide

theorem ignores_setPeriod_iff {f : Fsm} {p : Nat} : ignores f (.setPeriod p) = true ↔ f = .off := by
  cases f <;> simp [ignores]

theorem ignores_hostLog_iff {f : Fsm} {text : String} : ignores f (.hostLog text) = true ↔ f = .off := by
  cases f <;> simp [ignores]

/-- An ignored input leaves the state as it is. -/
theorem applyInput_of_ignores {i : Input} {s : State} (h : ignores s.fsm i = true) :
    applyInput i s = .next s := by
  cases i with
  | tick =>
    have hc : s.fsm.counts = false := ignores_tick_iff.mp h
    have hf : s.fsm ≠ .running := fun e => by rw [e] at hc; cases hc
    rw [applyInput, tick_not_running s hf, hc]
    rfl
  | powerOn => exact if_neg (ignores_powerOn_iff.mp h)
  | bootDone => exact if_neg (ignores_bootDone_iff.mp h)
  | powerOff => exact if_pos (ignores_powerOff_iff.mp h)
  | load => exact if_neg (by simp [ignores_load_iff.mp h])
  | format => exact if_neg (by simp [ignores_format_iff.mp h])
  | setPeriod => exact if_pos (ignores_setPeriod_iff.mp h)
  | hostLog => exact if_pos (ignores_hostLog_iff.mp h)

/-- Settles O44. -/
theorem ignoredInputsChangeNothing : Obligations.IgnoredInputsChangeNothing := by
  intro s
  refine ⟨fun h => ?_, fun text hf hi => ?_⟩
  · exact applyInput_of_ignores (s := s.takeInput) h
  · rw [step_eq, hi]
    exact if_neg hf

/-- Settles O55. -/
theorem setPeriodWritesOnlyPeriod : Obligations.SetPeriodWritesOnlyPeriod := by
  intro s p hp hi
  refine ⟨fun hf => ?_, fun hf => ?_⟩ <;> rw [step_eq, hi]
  · exact (if_neg hf).trans (if_pos hp)
  · exact if_pos hf

/-- Settles O56. -/
theorem bootDoneEntersIdle : Obligations.BootDoneEntersIdle := by
  intro s hf hi
  rw [step_eq, hi]
  exact if_pos hf

/-! ## No fault and no refusal (R126, R142) -/

/-- In RUNNING the invariant gives a program, so a TICK completes; outside RUNNING it always does. -/
theorem MachineInv.tick_completes {s : State} (h : MachineInv s) : ∃ t, tick s = .next t := by
  by_cases hf : s.fsm = .running
  · rcases tick_running_cases s hf with ⟨hn, _⟩ | ⟨p, _, ⟨_, e⟩ | ⟨_, _, e⟩ | ⟨_, _, e⟩⟩
    · simpa [hn] using h.progIffRunning.mpr hf
    · exact ⟨_, e⟩
    · exact ⟨_, e⟩
    · rw [e]
      exact everyInstructionCompletes _ _
  · exact ⟨_, tick_not_running s hf⟩

/-- A command with two outcomes that are both next states completes. -/
theorem ite_completes {c : Prop} [Decidable c] (a b : State) :
    ∃ t, (if c then .next a else .next b : Host.Outcome State Fault Refusal) = .next t :=
  ⟨if c then a else b, (apply_ite Host.Outcome.next c a b).symm⟩

theorem MachineInv.applyInput_completes {s : State} (h : MachineInv s) {i : Input}
    (hi : i.admissible = true) : ∃ t, applyInput i s = .next t := by
  cases i with
  | tick => exact h.tick_completes
  | load program seeds remarks banner =>
    rcases loadCommand_cases program seeds remarks banner s with ⟨_, e⟩ | ⟨_, _, e⟩ | ⟨_, hl, _⟩
    · exact ⟨_, e⟩
    · exact ⟨_, e⟩
    · exact absurd (of_decide_eq_true hi) hl
  | setPeriod p =>
    rcases setPeriod_cases p s with ⟨_, e⟩ | ⟨_, _, e⟩ | ⟨_, hp, _⟩
    · exact ⟨_, e⟩
    · exact ⟨_, e⟩
    · exact absurd (of_decide_eq_true hi) hp
  | powerOn => exact ite_completes _ _
  | bootDone => exact ite_completes _ _
  | powerOff => exact ite_completes _ _
  | format => exact ite_completes _ _
  | hostLog text => exact ite_completes _ _

/-- Settles O59. -/
theorem stepAlwaysReturns : Obligations.StepAlwaysReturns :=
  fun _ h hi => h.takeInput.applyInput_completes hi

end Sys2Proof.Machine
end

section
/-! NOP, MOV, LOAD and STORE (spec/41_data_movement.md R160 to R169): O11, O12, O13, O14, O15, O16. -/

namespace Sys2Proof.Machine

/-- Settles O11. -/
theorem nopOnlyAdvances : Obligations.NopOnlyAdvances :=
  fun s => ⟨s.advance, rfl, rfl, fun _ => rfl, rfl, fun _ => rfl, rfl, ⟨rfl, rfl⟩, ⟨rfl, rfl⟩,
    rfl, rfl, rfl, rfl, rfl, rfl, rfl⟩

/-- Settles O12: MOV is one register write, then the advance. -/
theorem movWritesImmediate : Obligations.MovWritesImmediate :=
  fun rd v s => ⟨(s.setReg rd v).advance, rfl, s.getReg_setReg_same rd v, sameRegsBut_setReg s rd v, rfl, rfl,
    fun _ => rfl, rfl, ⟨rfl, rfl⟩, ⟨rfl, rfl⟩, rfl, rfl, rfl, rfl, rfl, rfl, rfl⟩

/-- Settles O13: LOAD in range sets `last_addr` and writes the word read to its destination. -/
theorem loadReadsWordInRange : Obligations.LoadReadsWordInRange :=
  fun rd src s h => ⟨_, exec_load_inRange h, (s.touch (memIndex (s.operand src))).getReg_setReg_same rd _, rfl, rfl,
    sameRegsBut_setReg (s.touch (memIndex (s.operand src))) rd _, rfl, fun _ => rfl, ⟨rfl, rfl⟩, ⟨rfl, rfl⟩,
    rfl, rfl, rfl, rfl, rfl, rfl, rfl⟩

/-- Settles O14: the memory after the STORE is `writeWord` of the memory before. -/
theorem storeWritesWordInRange : Obligations.StoreWritesWordInRange :=
  fun rs addr s hs h => ⟨_, exec_store_inRange h,
    Memory.readWord_writeWord_same (memIndex addr) (s.getReg rs) hs,
    fun _ hb => Memory.readByte_writeWord_other (s.getReg rs) hs hb, rfl, rfl, fun _ => rfl, rfl, ⟨rfl, rfl⟩,
    ⟨rfl, rfl⟩, rfl, rfl, rfl, rfl, rfl, rfl, rfl⟩

/-- What an access out of range does: the event is logged and `pc` advances, everything else stays (R166). -/
theorem emit_advance_frame (s : State) (e : LogEvent) :
    SameMem s (s.emit e).advance ∧ Logged e s (s.emit e).advance ∧ (s.emit e).advance.pc = s.pc + 1#32 ∧
      SameRegs s (s.emit e).advance ∧ (s.emit e).advance.lastAddr = s.lastAddr ∧
      (s.emit e).advance.flags = s.flags ∧ SameStatus s (s.emit e).advance ∧
      (s.emit e).advance.console = s.console ∧ SameDriver s (s.emit e).advance :=
  ⟨fun _ => rfl, rfl, rfl, fun _ => rfl, rfl, rfl, ⟨rfl, rfl⟩, rfl, rfl, rfl, rfl, rfl, rfl, rfl, rfl⟩

/-- Settles O15: LOAD and STORE out of range differ in the event alone. -/
theorem outOfRangeAccessOnlyLogs : Obligations.OutOfRangeAccessOnlyLogs :=
  ⟨fun _ _ s h => ⟨_, exec_load_outOfRange h, emit_advance_frame s _⟩,
    fun _ _ s h => ⟨_, exec_store_outOfRange h, emit_advance_frame s _⟩⟩

/-- The memory snapshot shows word `i` at place `i` (R68). -/
theorem Memory.getElem?_allWords (m : Memory) (i : MemIndex) : m.allWords[i.toNat]? = some (m.readWord i) := by
  have hi : i.toNat < Config.memWords := i.isLt
  rw [Memory.allWords, List.getElem?_map, List.getElem?_range hi, Option.map_some, BitVec.ofNat_toNat,
    BitVec.setWidth_eq]

/-- Settles O16: after the STORE memory reads the stored word at its index (O14), so the snapshot shows it there and a
LOAD of the index reads it (O13). -/
theorem storeThenLoadReturnsWord : Obligations.StoreThenLoadReturnsWord := by
  intro rs addr rd src s t hs ha hstore
  have stored : t.mem.readWord (memIndex addr) = s.getReg rs := by
    obtain ⟨t', he, hread, _⟩ := storeWritesWordInRange rs addr s hs ha
    cases he.symm.trans hstore
    exact hread
  refine ⟨(t.mem.getElem?_allWords (memIndex addr)).trans (congrArg some stored), fun hsrc hidx => ?_⟩
  obtain ⟨u, hload, hreg, _⟩ := loadReadsWordInRange rd src t hsrc
  rw [hidx, stored] at hreg
  exact ⟨u, hload, hreg⟩

end Sys2Proof.Machine
end

section
/-! ADD, SUB, AND, OR and CMP (spec/42_alu.md R180 to R192): O17, O18, O19, O20. -/

namespace Sys2Proof.Machine

/-- The one effect of ADD, SUB, AND and OR (R181, R184 to R186). The step ends where the MOV of the ALU's `Y` output
to the destination ends, so its frame is MOV's (O12). -/
theorem aluStep_effect (s : State) (op : AluOp) (rd rs : Reg) :
    (s.aluStep op rd rs).getReg rd = alu op (s.getReg rd) (s.getReg rs) ∧
      SameRegsBut rd s (s.aluStep op rd rs) ∧ (s.aluStep op rd rs).flags = s.flags ∧
      (s.aluStep op rd rs).pc = s.pc + 1#32 ∧ SameMem s (s.aluStep op rd rs) ∧
      (s.aluStep op rd rs).lastAddr = s.lastAddr ∧ SameStatus s (s.aluStep op rd rs) ∧
      SameOutput s (s.aluStep op rd rs) ∧ SameDriver s (s.aluStep op rd rs) := by
  obtain ⟨t, hmov, hrd, hothers, hpc, hflags, hrest⟩ :=
    movWritesImmediate rd (alu op (s.getReg rd) (s.getReg rs)) s
  obtain rfl : s.aluStep op rd rs = t := Host.Outcome.next.inj hmov
  exact ⟨hrd, hothers, hflags, hpc, hrest⟩

/-- Settles O17. -/
theorem addWritesSum : Obligations.AddWritesSum :=
  fun rd rs s => ⟨s.aluStep .add rd rs, rfl, aluStep_effect s .add rd rs⟩

/-- Settles O18: under the reading `arith` the three instructions are ALU steps, as ADD is. -/
theorem subAndOrWriteResult : Obligations.SubAndOrWriteResult := by
  rintro rd rs s i r (⟨rfl, rfl⟩ | ⟨rfl, rfl⟩ | ⟨rfl, rfl⟩)
  · exact ⟨s.aluStep .sub rd rs, rfl, aluStep_effect s .sub rd rs⟩
  · exact ⟨s.aluStep .and rd rs, rfl, aluStep_effect s .and rd rs⟩
  · exact ⟨s.aluStep .or rd rs, rfl, aluStep_effect s .or rd rs⟩

/-- Settles O19: the reading `arith` is the ALU step, the reading `nop` is NOP's advance (O11). -/
theorem reservedReadingsAgreeButForResult : Obligations.ReservedReadingsAgreeButForResult := by
  refine fun s op rd rs => ⟨rfl, ?_⟩
  rintro sem _ rfl
  cases sem with
  | arith =>
    obtain ⟨_, hothers, hflags, hpc, hrest⟩ := aluStep_effect s op rd rs
    exact ⟨hpc, hothers, hflags, hrest⟩
  | nop =>
    obtain ⟨t, hnop, hpc, hregs, hrest⟩ := nopOnlyAdvances s
    obtain rfl : s.advance = t := Host.Outcome.next.inj hnop
    exact ⟨hpc, fun k _ => hregs k, hrest⟩

/-- The ALU's `E` output is equality of the words (R183). -/
theorem aluEq_iff {a b : Word} : aluEq a b = true ↔ a = b := beq_iff_eq

/-- Settles O20: the operand's value is that of the dual operand convention (O10). -/
theorem cmpSetsEqualFlag : Obligations.CmpSetsEqualFlag := by
  intro r b s
  rw [← dualOperandConvention s b]
  exact ⟨(s.setEqual (aluEq (s.getReg r) (s.operand (msop b)))).advance, rfl, aluEq_iff, rfl, rfl, fun _ => rfl,
    fun _ => rfl, rfl, ⟨rfl, rfl⟩, ⟨rfl, rfl⟩, rfl, rfl, rfl, rfl, rfl, rfl, rfl⟩

end Sys2Proof.Machine
end

section
/-! JEQ, JMP and HLT (spec/43_control.md R200 to R205): O21, O22, O23. -/

namespace Sys2Proof.Machine

/-- Settles O22. -/
theorem jmpSetsPc : Obligations.JmpSetsPc :=
  fun target s => ⟨s.setPc target, rfl, rfl, fun _ => rfl, rfl, fun _ => rfl, rfl, ⟨rfl, rfl⟩, ⟨rfl, rfl⟩,
    rfl, rfl, rfl, rfl, rfl, rfl, rfl⟩

/-- JEQ is the JMP to the place its flag chooses: its target, or the next instruction (R201). -/
theorem exec_jeq_eq_jmp (target : Word) (s : State) :
    exec (.jeq target) s = exec (.jmp (if s.flags.equal = true then target else s.pc + 1#32)) s :=
  congrArg Host.Outcome.next (apply_ite s.setPc _ target (s.pc + 1#32)).symm

/-- Settles O21: JEQ is a JMP, so its frame is JMP's (O22). -/
theorem jeqFollowsEqualFlag : Obligations.JeqFollowsEqualFlag := by
  intro target s
  rw [exec_jeq_eq_jmp]
  exact jmpSetsPc _ s

/-- Settles O23: what HLT stops, the driver stops, by the word in `ir` (R143). -/
theorem hltChangesNothing : Obligations.HltChangesNothing := fun _ => rfl

end Sys2Proof.Machine
end

section
/-! OUT and the text of a console line (spec/44_console.md R220 to R223): O24, O25. -/

namespace Sys2Proof.Machine

/-- A later console line never changes what the port presented before it (R223). -/
theorem portWords_append (ls ls' : List ConsoleLine) : portWords (ls ++ ls') = portWords ls ++ portWords ls' := by
  induction ls with
  | nil => rfl
  | cons l ls ih =>
    cases l with
    | word v => exact congrArg (v :: ·) ih
    | banner text => exact ih

/-- Settles O24: OUT prints its line and then only logs its event and advances, so its frame is that of
`emit_advance_frame` on the state that has printed. -/
theorem outPrintsRegister : Obligations.OutPrintsRegister := by
  intro rs s
  obtain ⟨hmem, hlog, hpc, hregs, hlast, hflags, hstatus, hconsole, hdriver⟩ :=
    emit_advance_frame (s.printLine (.word (s.getReg rs))) (.syscallOut (s.getReg rs))
  exact ⟨_, rfl, hconsole, (congrArg portWords hconsole).trans (portWords_append s.console _), hlog, hpc, hregs,
    hflags, hmem, hlast, hstatus, hdriver⟩

/-! ## The decimal text of an integer, read back -/

/-- The text is a row of the digits `0` to `9`. -/
def AllDigits (cs : List Char) : Prop := ∀ c ∈ cs, c.isDigit = true

theorem allDigits_toDigits (n : Nat) : AllDigits (Nat.toDigits 10 n) :=
  fun _ => Nat.isDigit_of_mem_toDigits (by decide) (by decide)

theorem isDigit_iff_range {c : Char} : c.isDigit = true ↔ '0' ≤ c ∧ c ≤ '9' := by
  simp [Char.isDigit, Char.le_def, UInt32.le_iff_toNat_le]

/-- A decimal digit's value in the reader is its distance from `0`. -/
theorem digitValue_of_isDigit {c : Char} (hc : c.isDigit = true) : digitValue c = some (c.toNat - '0'.toNat) :=
  if_pos (isDigit_iff_range.mp hc)

theorem digit_lt_ten {c : Char} (hc : c.isDigit = true) : c.toNat - '0'.toNat < 10 := by
  have h9 : c.toNat ≤ '9'.toNat := (isDigit_iff_range.mp hc).2
  have : '9'.toNat = '0'.toNat + 9 := rfl
  omega

/-- On decimal digits the reader of R103 computes the library's value of the row. -/
theorem digitsFrom_of_allDigits {cs : List Char} (acc : Nat) (hcs : AllDigits cs) :
    digitsFrom 10 acc cs = some (Nat.ofDigitChars 10 cs acc) := by
  induction cs generalizing acc with
  | nil => rfl
  | cons c cs ih =>
    obtain ⟨hc, hrest⟩ := List.forall_mem_cons.mp hcs
    simp only [digitsFrom, digitValue_of_isDigit hc, if_pos (digit_lt_ten hc)]
    rw [ih _ hrest, Nat.ofDigitChars_cons, Nat.mul_comm]

theorem readDigits_of_ne_nil (base : Nat) {cs : List Char} (hcs : cs ≠ []) :
    readDigits base cs = digitsFrom base 0 cs := by
  cases cs with
  | nil => exact absurd rfl hcs
  | cons c cs => rfl

theorem readDigits_toDigits (n : Nat) : readDigits 10 (Nat.toDigits 10 n) = some n := by
  rw [readDigits_of_ne_nil 10 Nat.toDigits_ne_nil, digitsFrom_of_allDigits 0 (allDigits_toDigits n),
    Nat.ofDigitChars_ten_toDigits]

/-- A row of digits has neither the sign nor the `0x` that R103 reads otherwise. -/
theorem readInt_of_allDigits {cs : List Char} {n : Nat} (hcs : AllDigits cs) (hn : readDigits 10 cs = some n) :
    readInt cs = some (n : Int) := by
  unfold readInt
  split
  case h_1 ds => exact absurd (hcs '-' (by simp)) (by decide)
  case h_2 ds => exact absurd (hcs 'x' (by simp)) (by decide)
  case h_3 =>
    rw [hn]
    rfl

theorem readInt_minus {cs : List Char} {n : Nat} (hn : readDigits 10 cs = some n) :
    readInt ('-' :: cs) = some (-(n : Int)) := by
  rw [readInt, hn]
  rfl

/-! The text of a number by its sign (R222). -/

theorem decimal_ofNat (n : Nat) : decimal (Int.ofNat n) = Nat.toDigits 10 n := if_neg (by simp)

theorem decimal_negSucc (n : Nat) : decimal (Int.negSucc n) = '-' :: Nat.toDigits 10 (n + 1) :=
  if_pos (Int.negSucc_lt_zero n)

theorem readInt_decimal (z : Int) : readInt (decimal z) = some z := by
  cases z with
  | ofNat n =>
    rw [decimal_ofNat]
    exact readInt_of_allDigits (allDigits_toDigits n) (readDigits_toDigits n)
  | negSucc n =>
    rw [decimal_negSucc]
    exact readInt_minus (readDigits_toDigits (n + 1))

/-! ## No leading zeros -/

/-- The first digit is that of `n / 10` when there is more than one, so it is `0` for 0 alone. -/
theorem eq_zero_of_toDigits_eq_zero_cons {n : Nat} {rest : List Char} (h : Nat.toDigits 10 n = '0' :: rest) :
    n = 0 := by
  induction n using Nat.strongRecOn generalizing rest with
  | ind n ih =>
    by_cases hn : n < 10
    · rw [Nat.toDigits_of_lt_base hn] at h
      exact Nat.digitChar_eq_zero.mp (List.cons.inj h).1
    · rw [Nat.toDigits_of_base_le (by decide) (by omega)] at h
      obtain ⟨h', -⟩ | ⟨front, hfront, -⟩ := List.append_eq_cons_iff.mp h
      · exact absurd h' Nat.toDigits_ne_nil
      · have := ih (n / 10) (by omega) hfront
        omega

theorem decimal_zero_cons {z : Int} {rest : List Char} (h : decimal z = '0' :: rest) : rest = [] := by
  cases z with
  | ofNat n =>
    rw [decimal_ofNat] at h
    obtain rfl := eq_zero_of_toDigits_eq_zero_cons h
    exact (List.cons.inj h).2.symm
  | negSucc n =>
    rw [decimal_negSucc] at h
    exact absurd (List.cons.inj h).1 (by decide)

theorem decimal_ne_neg_zero_cons (z : Int) (rest : List Char) : decimal z ≠ '-' :: '0' :: rest := by
  intro h
  cases z with
  | ofNat n =>
    rw [decimal_ofNat] at h
    have hminus : '-' ∈ Nat.toDigits 10 n := h ▸ List.mem_cons_self
    exact absurd (allDigits_toDigits n '-' hminus) (by decide)
  | negSucc n =>
    rw [decimal_negSucc] at h
    exact Nat.succ_ne_zero n (eq_zero_of_toDigits_eq_zero_cons (List.cons.inj h).2)

/-- Settles O25: the line's text is `decimal` of the word's signed reading. -/
theorem consoleLineIsSignedDecimal : Obligations.ConsoleLineIsSignedDecimal :=
  fun v => ⟨readInt_decimal v.toInt, fun _ => decimal_zero_cons, decimal_ne_neg_zero_cons v.toInt⟩

end Sys2Proof.Machine
end

section
/-! The fault events of an engine step (spec/60_exceptions.md R235, R236): O40. -/

namespace Sys2Proof.Machine

/-- An instruction logs nothing, or one event: LOAD and STORE make one access each, an illegal word none. -/
theorem exec_klog_or_logged {i : Instr} {s t : State} (h : exec i s = .next t) :
    t.klog = s.klog ∨ ∃ e, Logged e s t := by
  cases Executes.of_exec h
  case loadOut rd src hr => exact .inr ⟨.memFault .loadFault (s.operand src), rfl⟩
  case storeOut rs addr hr => exact .inr ⟨.memFault .storeFault addr, rfl⟩
  case out rs => exact .inr ⟨.syscallOut (s.getReg rs), rfl⟩
  case illegal13 => exact .inr ⟨.illegalWord s.pc s.ir, rfl⟩
  case illegal14 => exact .inr ⟨.illegalWord s.pc s.ir, rfl⟩
  case illegal15 => exact .inr ⟨.illegalWord s.pc s.ir, rfl⟩
  all_goals exact .inl rfl

/-- The one event of an instruction comes after the EXEC of its fetch, both trimmed at once. -/
theorem logged_of_logged_fetch {s t : State} {w : InstrWord} {e : LogEvent} (h : Logged e (s.fetch w) t) :
    t.klog = lastEntries Config.logCap (s.klog ++ [.exec s.pc w, e]) := by
  rw [h, State.fetch_klog, lastEntries_append, List.append_assoc, List.singleton_append]

theorem length_faultCodes_singleton_le (e : LogEvent) : ([e].filterMap LogEvent.faultCode).length ≤ 1 :=
  List.length_filterMap_le _ _

/-- EXEC has no fault code, so it adds nothing to the count of the event after it. -/
theorem length_faultCodes_exec_cons_le (pc : Word) (w : InstrWord) (e : LogEvent) :
    ([.exec pc w, e].filterMap LogEvent.faultCode).length ≤ 1 :=
  length_faultCodes_singleton_le e

/-- Settles O40: a soft halt logs its one event and fetches nothing; any other engine step logs EXEC and at most
one event of its instruction. -/
theorem atMostOneFaultEventPerStep : Obligations.AtMostOneFaultEventPerStep := by
  intro s t h
  rcases engineStep_cases s with ⟨_, e⟩ | ⟨p, _, ⟨_, e⟩ | ⟨hpc, e⟩⟩ <;> rw [e] at h
  · cases h
  · cases h
    exact ⟨[.softHalt s.pc], rfl, length_faultCodes_singleton_le _⟩
  · rcases exec_klog_or_logged h with hlog | ⟨event, hlog⟩
    · exact ⟨[.exec s.pc p[s.pc.toNat]], hlog, length_faultCodes_singleton_le _⟩
    · exact ⟨_, logged_of_logged_fetch hlog, length_faultCodes_exec_cons_le _ _ event⟩

end Sys2Proof.Machine
end

section
/-! Power-on, power-off, LOAD and FORMAT (spec/70_reset_and_hazards.md R260 to R269): O48, O50, O51, O52, O54. -/

namespace Sys2Proof.Machine

/-! ## The step on each of the host's commands -/

theorem nextInput_of_inputs_cons {s : State} {i : Input} {rest : List Input} (h : s.inputs = i :: rest) :
    s.nextInput = i := by
  rw [State.nextInput, h]

theorem step_of_powerOn {s : State} (hi : s.nextInput = .powerOn) (hf : s.fsm = .off) :
    step s = .next (State.poweredOn s.draws s.inputs.tail) := by
  rw [step_eq, hi]
  exact if_pos hf

theorem step_of_powerOff {s : State} (hi : s.nextInput = .powerOff) (hf : s.fsm ≠ .off) :
    step s = .next (State.poweredOff s.draws s.inputs.tail) := by
  rw [step_eq, hi]
  exact if_neg hf

theorem step_of_load {s : State} {program : List InstrWord} {seeds : List (Word × Word)}
    {remarks banner : List String} (hi : s.nextInput = .load program seeds remarks banner)
    (hb : s.fsm.booted = true) (hl : program.length ≤ Config.progMax.val) :
    step s = .next (s.takeInput.loadProgram program seeds remarks banner) := by
  rw [step_eq, hi]
  exact (if_pos hb).trans (if_pos hl)

theorem step_of_format {s : State} (hi : s.nextInput = .format) (hb : s.fsm.booted = true) :
    step s = .next s.takeInput.formatted := by
  rw [step_eq, hi]
  exact if_pos hb

/-! ## Power (R260, R268, R269) -/

/-- Settles O48. -/
theorem powerOnCreatesResetValues : Obligations.PowerOnCreatesResetValues :=
  fun _ hf hi => ⟨_, step_of_powerOn hi hf, poweredOn_powerOnValues _ _⟩

/-- Settles O50. -/
theorem powerOffDiscardsAllState : Obligations.PowerOffDiscardsAllState :=
  fun _ hf hi => ⟨step_of_powerOff hi hf, rfl, rfl, rfl, rfl, rfl⟩

/-- A POWER_OFF leaves what depends on the draws and the later inputs alone. -/
theorem step_of_inputs_powerOff {s : State} {rest : List Input} (hf : s.fsm ≠ .off)
    (hi : s.inputs = .powerOff :: rest) : step s = .next (State.poweredOff s.draws rest) := by
  rw [step_of_powerOff (nextInput_of_inputs_cons hi) hf, hi, List.tail_cons]

/-- Settles O51: with the same draws and inputs both cores reach one powered-off state, so POWER_ON starts from
the same state in both. -/
theorem powerCycleForgetsEverything : Obligations.PowerCycleForgetsEverything := by
  intro s s' rest hf hf' hi hi' hdraws
  have hoff : step s = .next (State.poweredOff s.draws (.powerOn :: rest)) := step_of_inputs_powerOff hf hi
  have hoff' : step s' = .next (State.poweredOff s.draws (.powerOn :: rest)) :=
    hdraws ▸ step_of_inputs_powerOff hf' hi'
  have hon : step (State.poweredOff s.draws (.powerOn :: rest)) = .next (State.poweredOn s.draws rest) :=
    step_of_powerOn rfl rfl
  exact ⟨_, _, _, hoff, hoff', hon, hon, poweredOn_powerOnValues s.draws rest⟩

/-! ## The seeds of a LOAD (R264, R265) -/

/-- The seeds leave in each word the value of the last in-range seed that names it. -/
theorem seeds_readWord (i : MemIndex) : ∀ (seeds : List (Word × Word)) (s : State), s.mem.wf = true →
    (seeds.foldl seedWrite s).mem.readWord i = seededWord (s.mem.readWord i) i seeds
  | [], _, _ => rfl
  | (a, v) :: rest, s, h => by
    rw [List.foldl_cons, seeds_readWord i rest _ (seedWrite_wf s (a, v) h), seededWord]
    congr 1
    rcases seedWrite_cases s (a, v) with ⟨hr, e⟩ | ⟨hr, e⟩ <;> rw [e]
    · by_cases hi : memIndex a = i
      · rw [if_pos ⟨hr, hi⟩, ← hi]
        exact Memory.readWord_writeWord_same _ v h
      · rw [if_neg (hi ·.2)]
        exact Memory.readWord_writeWord_other v h (Ne.symm hi)
    · rw [if_neg (by simp [hr]), State.emit_mem]

/-- The seeds log one fault event for each address out of range, trimmed at once. -/
theorem seeds_klog : ∀ (seeds : List (Word × Word)) (s : State), s.klog.length ≤ Config.logCap →
    (seeds.foldl seedWrite s).klog = lastEntries Config.logCap (s.klog ++ seedFaults seeds)
  | [], s, h => by rw [seedFaults, List.append_nil, lastEntries_of_le h, List.foldl_nil]
  | (a, v) :: rest, s, h => by
    rw [List.foldl_cons, seeds_klog rest _ (seedWrite_logBound s (a, v) h), seedFaults]
    rcases seedWrite_cases s (a, v) with ⟨hr, e⟩ | ⟨hr, e⟩ <;> rw [e]
    · rw [if_pos hr, State.setWord_klog]
    · rw [if_neg (by simp [hr]), State.emit_klog, lastEntries_append, List.append_assoc, List.singleton_append]

/-- The loader's remarks are logged in list order, trimmed at once. -/
theorem hostEvents_klog : ∀ (texts : List String) (s : State), s.klog.length ≤ Config.logCap →
    (texts.foldl (fun t l => t.emit (.host l)) s).klog =
      lastEntries Config.logCap (s.klog ++ texts.map .host)
  | [], s, h => by rw [List.map_nil, List.append_nil, lastEntries_of_le h, List.foldl_nil]
  | l :: rest, s, _ => by
    rw [List.foldl_cons, hostEvents_klog rest _ (emit_logBound s _), State.emit_klog, lastEntries_append,
      List.append_assoc, List.singleton_append, List.map_cons]

/-! ## LOAD and FORMAT (R263, R266) -/

section LoadProgram

variable (s : State) (program : List InstrWord) (seeds : List (Word × Word)) (remarks banner : List String)

theorem loadProgram_readWord (h : s.mem.wf = true) (i : MemIndex) :
    (s.loadProgram program seeds remarks banner).mem.readWord i = seededWord (s.mem.readWord i) i seeds := by
  rw [State.loadProgram, loaderLines_frame]
  exact seeds_readWord i seeds (s.install program) h

/-- The seeds' fault events come before the loader's remarks. -/
theorem loadProgram_klog (h : s.klog.length ≤ Config.logCap) :
    (s.loadProgram program seeds remarks banner).klog =
      lastEntries Config.logCap (s.klog ++ seedFaults seeds ++ remarks.map .host) := by
  have hseeds : (seeds.foldl seedWrite (s.install program)).clearLast.klog =
      lastEntries Config.logCap (s.klog ++ seedFaults seeds) := seeds_klog seeds (s.install program) h
  rw [State.loadProgram, loaderLines_frame, State.enterRunning_klog,
    hostEvents_klog remarks _ (hseeds ▸ lastEntries_length_le _ _), hseeds, lastEntries_append]

theorem loadProgram_console :
    (s.loadProgram program seeds remarks banner).console = s.console ++ banner.map .banner := by
  rw [State.loadProgram, loaderLines_frame, seeds_frame]
  rfl

theorem loadProgram_getReg (r : Reg) : (s.loadProgram program seeds remarks banner).getReg r = 0#32 := by
  rw [loadProgram_frame]
  exact s.clearMachine_getReg r

end LoadProgram

/-- Settles O52: `loadProgram_frame` gives every component but memory, the log and the console, which have a lemma
each. -/
theorem loadInstallsProgramAndSeeds : Obligations.LoadInstallsProgramAndSeeds := by
  intro s program seeds remarks banner hmem hlog hf hi hl
  have frame := loadProgram_frame s.takeInput program seeds remarks banner
  exact ⟨_, step_of_load hi (Fsm.booted_iff.mpr hf) hl, loadProgram_getReg _ _ _ _ _, congrArg State.pc frame,
    congrArg (·.flags.zero) frame, congrArg (·.flags.equal) frame, congrArg State.ir frame,
    congrArg State.err frame, congrArg State.lastAddr frame, congrArg State.prog frame, congrArg State.fsm frame,
    loadProgram_readWord _ _ _ _ _ hmem, (congrArg State.cycle frame :), (congrArg State.temp frame :),
    (congrArg State.period frame :), loadProgram_klog _ _ _ _ _ hlog, loadProgram_console _ _ _ _ _⟩

/-- Settles O54. -/
theorem formatZeroesMemoryAndIdles : Obligations.FormatZeroesMemoryAndIdles :=
  fun s hf hi => ⟨_, step_of_format hi (Fsm.booted_iff.mpr hf), Memory.readWord_nil, s.takeInput.formatted_getReg,
    rfl, rfl, rfl, rfl, rfl, rfl, rfl, rfl, rfl, rfl, rfl, rfl, rfl⟩

end Sys2Proof.Machine
end
